-- ==== Sys2Proof/Word.lean ====
section
/-! DEFINITION. The fixed-width values of the machine: bytes, 16-bit words and 32-bit longwords
(00_scope.md rule R3; a word of 16 bits is PRESUMED, decision D2, log 15). -/

namespace Sys2Proof

/-- A byte of memory. -/
abbrev Byte := BitVec 8

/-- A word, 16 bits (D2). An instruction is made of words. -/
abbrev Half := BitVec 16

/-- A longword, 32 bits: a register, an address, an entry of the data array (R2, R3). -/
abbrev Long := BitVec 32

end Sys2Proof
end

