-- ==== Sys2Proof/Syntax.lean ====
section
/-! DEFINITION. The instructions of the opcode table (30_encoding.md), one constructor per row. -/

namespace Sys2Proof

/-- A general register of the core as a MOVEC names it: a data register Dn or an address register An
(R61: bit 15 of the second word chooses between them). The register number is a plain number, checked
in WellFormed. -/
inductive Reg where
  /-- Dn. -/
  | d (n : Nat)
  /-- An. -/
  | a (n : Nat)
deriving DecidableEq, Repr

/-- The four rows of spec/opcode_table.json. -/
inductive Instr where
  /-- `MOVEC Ry,CACR` (R120). -/
  | movecCacr (ry : Reg)
  /-- `MOVEC Ry,ACR0` (R121). -/
  | movecAcr0 (ry : Reg)
  /-- `MOVEC Ry,ACR1` (R122). -/
  | movecAcr1 (ry : Reg)
  /-- `CPUSHL (Ax)` (R113), `ax` the number of the address register. -/
  | cpushl (ax : Nat)
deriving DecidableEq, Repr

end Sys2Proof
end

