-- ==== Sys2Proof/WellFormed.lean ====
section
/-! DEFINITION. Which instruction terms the encodings of 30_encoding.md can write: a register number is 0 to 7. -/

namespace Sys2Proof

/-- A register the three-bit field of R61 can name. -/
def Reg.wf : Reg → Bool
  | .d n => decide (n < 8)
  | .a n => decide (n < 8)

/-- An instruction that the encodings R61 and R62 can write. -/
def Instr.wf : Instr → Bool
  | .movecCacr ry => ry.wf
  | .movecAcr0 ry => ry.wf
  | .movecAcr1 ry => ry.wf
  | .cpushl ax => decide (ax < 8)

/-- The well-formed instructions, as a proposition. -/
abbrev Instr.WellFormed (i : Instr) : Prop := i.wf = true

end Sys2Proof
end

