-- ==== Sys2Proof/Decode.lean ====
section
/-! DEFINITION. The decoder and the encoder of 30_encoding.md (rules R61, R62; the patterns are PRESUMED, decision D16,
log 21). The decoder is total: what is not one of the four rows is refused by name (R64, R66, decisions D16, D25). -/

namespace Sys2Proof

/-- Why a sequence of words is none of the four rows. -/
inductive DecodeError where
  /-- Fewer words than the instruction has. -/
  | tooShort
  /-- A MOVEC with a control register number the section does not assign (R64). -/
  | unassignedRc (rc : BitVec 12)
  /-- A CPUSHL whose cache field is not 11 (R62, D16). -/
  | cpushlCacheField (cc : BitVec 2)
  /-- Any other first word (R66, D25). -/
  | outsideUnit (w : Half)
deriving DecidableEq, Repr

/-- What the decoder answers. -/
inductive Decoded where
  /-- An instruction and how many words it has. -/
  | instr (i : Instr) (words : Nat)
  /-- No instruction of the unit, and why. -/
  | rejected (e : DecodeError)
deriving DecidableEq, Repr

/-- The first word of a MOVEC (R61). -/
def movecOpcode : Half := 0x4E7B#16

/-- The register named by bits 15 and 14:12 of a MOVEC's second word (R61). -/
def decodeReg (ext : Half) : Reg :=
  if ext.getLsbD 15 then .a (ext.extractLsb' 12 3).toNat else .d (ext.extractLsb' 12 3).toNat

/-- The second word of a MOVEC (R61): the control register number selects the row (R63). -/
def decodeMovec (ext : Half) : Decoded :=
  let rc := ext.extractLsb' 0 12
  if rc = 0x002#12 then .instr (.movecCacr (decodeReg ext)) 2
  else if rc = 0x004#12 then .instr (.movecAcr0 (decodeReg ext)) 2
  else if rc = 0x005#12 then .instr (.movecAcr1 (decodeReg ext)) 2
  else .rejected (.unassignedRc rc)

/-- A first word that is not MOVEC's: CPUSHL is 1111 0100 cc 101 nnn with cc = 11 (R62). -/
def decodeSingle (w : Half) : Decoded :=
  if w.extractLsb' 8 8 = 0xF4#8 ∧ w.extractLsb' 3 3 = 0b101#3 then
    if w.extractLsb' 6 2 = 0b11#2 then .instr (.cpushl (w.extractLsb' 0 3).toNat) 1
    else .rejected (.cpushlCacheField (w.extractLsb' 6 2))
  else .rejected (.outsideUnit w)

/-- The decoder over words, the first word first. -/
def decodeWords : List Half → Decoded
  | [] => .rejected .tooShort
  | w :: rest =>
    if w = movecOpcode then
      match rest with
      | [] => .rejected .tooShort
      | ext :: _ => decodeMovec ext
    else decodeSingle w

/-- How many words the decoder needs to see after this first word: the first word determines the length (R65). -/
def wordsNeeded : List Half → Nat
  | [] => 1
  | w :: _ => if w = movecOpcode then 2 else 1

/-- Bytes to words, the byte at the lower address in bits 15:8 (R43, D1, PRESUMED, log 15). -/
def wordsOfBytes : List Byte → List Half
  | hi :: lo :: rest => (hi.setWidth 16 <<< 8 ||| lo.setWidth 16) :: wordsOfBytes rest
  | _ => []

/-- Words to bytes, the inverse layout. -/
def bytesOfWords : List Half → List Byte
  | [] => []
  | w :: rest => w.extractLsb' 8 8 :: w.extractLsb' 0 8 :: bytesOfWords rest

/-- The decoder over bytes as memory holds them, total on any bytes. -/
def decode (bytes : List Byte) : Decoded := decodeWords (wordsOfBytes bytes)

/-- Bits 15:12 of a MOVEC's second word (R61). -/
def encodeReg : Reg → BitVec 4
  | .d n => BitVec.ofNat 4 (n % 8)
  | .a n => 0b1000#4 ||| BitVec.ofNat 4 (n % 8)

/-- The second word of a MOVEC (R61). -/
def encodeMovecExt (ry : Reg) (rc : BitVec 12) : Half := (encodeReg ry).setWidth 16 <<< 12 ||| rc.setWidth 16

/-- The words of an instruction (R61, R62), the first word first. -/
def encode : Instr → List Half
  | .movecCacr ry => [movecOpcode, encodeMovecExt ry 0x002#12]
  | .movecAcr0 ry => [movecOpcode, encodeMovecExt ry 0x004#12]
  | .movecAcr1 ry => [movecOpcode, encodeMovecExt ry 0x005#12]
  | .cpushl ax => [0xF4E8#16 ||| BitVec.ofNat 16 (ax % 8)]

/-- How many words an instruction has (R65): two for MOVEC, one for CPUSHL. -/
def Instr.words : Instr → Nat
  | .movecCacr _ => 2
  | .movecAcr0 _ => 2
  | .movecAcr1 _ => 2
  | .cpushl _ => 1

/-- Whether a two-word order holds one of the four rows. -/
def Decoded.isInstr : Decoded → Bool
  | .instr _ _ => true
  | .rejected _ => false

/-- The words of an opcode-table number. A row of at most 16 bits is the one word, and a word of zeros follows it.
spec/opcode_table.json numbers a MOVEC with its FIRST word in bits 31:16 (R61: "As one 32-bit pattern, first word in bits
31:16"), so that order is tried first; a number that is no instruction in that order is read with the first word in bits
15:0. No number is an instruction in both orders. Log 22. -/
def tableWords (nbits w : Nat) : List Half :=
  if nbits ≤ 16 then [BitVec.ofNat 16 w, 0#16]
  else
    let hi := BitVec.ofNat 16 (w / 65536)
    let lo := BitVec.ofNat 16 w
    if (decodeWords [hi, lo]).isInstr then [hi, lo] else [lo, hi]

/-- The instruction the decoder reads from an opcode-table number, laid out as bytes of memory. -/
def decodeTableWord (nbits w : Nat) : Option Instr :=
  match decode (bytesOfWords (tableWords nbits w)) with
  | .instr i _ => some i
  | .rejected _ => none

end Sys2Proof
end

