-- ==== Sys2Proof/Config.lean ====
section
/-! DEFINITION. The constants of the implementation (00_scope.md rule R2 and its parameter table) and the free values:
opaque constants with no body, of which nothing can be proved, so that a statement holds for every value. -/

namespace Sys2Proof.Config

/-- The implemented stored bits of CACR (R12). -/
def cacrMask : Long := 0x98000723#32

/-- The implemented bits of ACR0 and ACR1 (R24). -/
def acrMask : Long := 0xFFFFE064#32

/-- INV_CYCLES: how many entries the invalidate-all sequence clears, one per machine cycle (R2, R111). -/
def invCycles : Nat := 32

/-- CINV_CLEARS_FILLBUF (R116 (a), decision D5): the spec's own choice. Log 11. -/
def cinvClearsFillbuf : Bool := true

/-- CPUSHL_CLEARS_FILLBUF (R116 (b), decision D6): the spec's own choice. Log 11. -/
def cpushlClearsFillbuf : Bool := true

/-- NONCACHEABLE_HITS_ARRAY (R98, decision D9): left open by the spec. Log 12. -/
opaque noncacheableHitsArray : Bool

/-- BUFWRITE_BEFORE_LATER_FETCH (R48 (b), decision D8): left open by the spec. Log 13. -/
opaque bufwriteBeforeLaterFetch : Bool

/-- VEC_ACCESS_ERROR (R130, decision D17), PRESUMED. -/
def vecAccessError : Nat := 2

/-- VEC_PRIVILEGE (R132, decision D17), PRESUMED. -/
def vecPrivilege : Nat := 8

/-- What a byte of external memory or of the SRAM module that nothing has written reads as. DESIGN CHOICE, log 14. -/
def unlistedByte : Byte := 0#8

/-- The status register after reset: supervisor mode, as the family resets it. PRESUMED, log 2. -/
def resetSr : Half := 0x2700#16

/-- The program counter after reset: the family loads it from the longword at address 4, which reads as zero while
memory lists nothing. PRESUMED, log 2. -/
def resetPc : Long := 0#32

/-- A free longword: what a fetch returns before the first invalidation (R53, R147), and the fill buffer's data after a
hardware reset (R39). The argument counts the draws. Log 6, log 7. -/
opaque anyLongword : Nat → Long

/-- A free line address: `fb.addr` after a hardware reset (R39). Log 6. -/
opaque anyLineAddr : Nat → BitVec 28

/-- A free bit: `fb.mru` and `fb.cacheable` after a hardware reset (R39). Log 6. -/
opaque anyBit : Nat → Bool

/-- What a device answers when it is read on the external bus: of ExtFetch (R2, R45) the source says nothing for a device
address. The arguments are how many accesses devices have answered and the address; an operand or word read takes the low
bits. Log 31. -/
opaque deviceAnswer : Nat → Long → Long

/-- The address an exception sends the core to, which the source does not give (R136). Log 20. -/
opaque handlerAddress : Nat → Long

end Sys2Proof.Config
end

