-- ==== Sys2Proof/Machine/State.lean ====
section
/-! DEFINITION. The state of the machine as plain data, its outcomes' reasons, and the state after reset.
The unit itself is `Cache` (10_state.md rules R10 to R39); `Core` and `Platform` are what the unit's rules read of its
neighbours; `State` adds the agenda and the model's own bookkeeping. -/

namespace Sys2Proof.Machine

/-- The three control registers of the unit (R63). -/
inductive CtrlReg where
  /-- Rc $002. -/
  | cacr
  /-- Rc $004. -/
  | acr0
  /-- Rc $005. -/
  | acr1
deriving DecidableEq, Repr

/-- The kind of a reference (R41). -/
inductive RefKind where
  /-- Instruction fetch. -/
  | fetch
  /-- Operand read. -/
  | read
  /-- Operand write. -/
  | write
deriving DecidableEq, Repr

/-- Who makes a reference (R41). -/
inductive Initiator where
  /-- The ColdFire core. -/
  | core
  /-- The Debug module. -/
  | debug
deriving DecidableEq, Repr

/-- The size of a reference: a fetch is of a word or a longword (R41); operand sizes are PRESUMED (log 16). -/
inductive RefSize where
  /-- 8 bits: of operands only; a fetch request of this size is refused (log 33). -/
  | byte
  /-- 16 bits. -/
  | word
  /-- 32 bits. -/
  | longword
deriving DecidableEq, Repr

/-- A reference on the local bus (R41). -/
structure Ref where
  addr : Long
  kind : RefKind
  /-- Supervisor rather than user. -/
  super : Bool
  src : Initiator
  size : RefSize
deriving DecidableEq, Repr

/-- The line-fill buffer (R35 to R37). -/
structure FillBuffer where
  /-- Address bits [31:4] of the buffered line. -/
  addr : BitVec 28
  /-- One valid bit per longword. -/
  lwvalid : Vector Bool 4
  /-- The longword at byte offset 4k. -/
  data : Vector Long 4
  /-- The most-recently-used indicator: set means the buffer is (R36). -/
  mru : Bool
  /-- The buffered line was fetched by a cacheable reference (R37 (a)). -/
  cacheable : Bool
  /-- The longwords of the current burst still to arrive, in order (R37 (b)). -/
  pending : List (BitVec 2)
deriving DecidableEq, Repr

/-- The unit (R10). -/
structure Cache where
  /-- Cache Control Register (R11 to R22); only implemented stored bits are ever held. -/
  cacr : Long
  /-- Access Control Register 0 (R23 to R32). -/
  acr0 : Long
  /-- Access Control Register 1 (R23 to R32). -/
  acr1 : Long
  /-- Address bits [31:9] of each line (R33). -/
  tag : Vector (BitVec 23) 32
  /-- One valid bit per line (R33). -/
  valid : Vector Bool 32
  /-- The data array, entry 4i + k the longword at offset 4k of line i (R34). -/
  data : Vector Long 128
  fb : FillBuffer
  /-- How many entries the invalidate-all sequence has still to clear; `inv_busy` is "not zero" (R37 (c), R111). -/
  invLeft : Nat
  /-- No invalidate-all sequence has completed since the last hardware reset (R53, R147). -/
  cold : Bool
deriving DecidableEq, Repr

/-- The core as the unit sees it (10_state.md section 6; the layout is PRESUMED, log 1). -/
structure Core where
  /-- D0 to D7. -/
  d : Vector Long 8
  /-- A0 to A7. -/
  a : Vector Long 8
  pc : Long
  /-- The status register; bit 13 is the supervisor bit. -/
  sr : Half
  /-- Instruction words the core already holds, the first of them at the pc (R50, D20). Log 23. -/
  prefetch : List Half
deriving DecidableEq, Repr

/-- A region whose references the SRAM module services: one piece of the parameter SramMaps (R2, R46), by every field of a
reference (R41). A list of regions can say any SramMaps. -/
structure SramRegion where
  /-- First byte address. -/
  lo : Long
  /-- Last byte address. -/
  hi : Long
  fetches : Bool
  reads : Bool
  writes : Bool
  user : Bool
  super : Bool
  core : Bool
  debug : Bool
  bytes : Bool
  words : Bool
  longwords : Bool
deriving DecidableEq, Repr

/-- An operand write on its way to the external bus (R75). `value` is right-justified. -/
structure BusWrite where
  addr : Long
  size : RefSize
  value : Long
  src : Initiator
deriving DecidableEq, Repr

/-- The exceptions the unit causes (60_exceptions.md section 1). -/
inductive Exc where
  /-- Access error on an operand write (R130, R131). -/
  | accessError
  /-- MOVEC or CPUSHL in user mode (R132). -/
  | privilegeViolation
deriving DecidableEq, Repr

/-- Why an operand write ended in an access error (table of 60_exceptions.md section 1). -/
inductive AccessCause where
  /-- The effective attributes protect the address (R130). -/
  | writeProtect
  /-- The external bus reported an error (R131). -/
  | busError
deriving DecidableEq, Repr

/-- An access error not yet reported to the core (R131). -/
structure PendingError where
  src : Initiator
  cause : AccessCause
deriving DecidableEq, Repr

/-- One external access the unit or the bus controller asks for (R45). -/
inductive ExtAccess where
  /-- `ExtFetch(a, word)`. -/
  | fetchWord (a : Long)
  /-- `ExtFetch(a, longword)`. -/
  | fetchLongword (a : Long)
  /-- `ExtFetch(a, line)`, `a` the first byte of the line. -/
  | fetchLine (a : Long)
  /-- One longword of a line fetch, in the order of R90. -/
  | beat (a : Long)
  /-- An operand read. -/
  | operandRead (a : Long) (size : RefSize)
  /-- An operand write. -/
  | operandWrite (a : Long) (size : RefSize)
deriving DecidableEq, Repr

/-- The neighbours on the two buses. -/
structure Platform where
  /-- External memory: strictly rising addresses, no entry equal to the unlisted byte. -/
  mem : List Host.Cell
  /-- The contents of the SRAM module, in the same form. -/
  sram : List Host.Cell
  /-- SramMaps (R2). -/
  sramMap : List SramRegion
  /-- The longwords (address bits [31:2]) at which the external bus ends an access with an error (R131, R133). -/
  busErrors : List (BitVec 30)
  /-- The longwords (address bits [31:2]) that belong to a device of the external bus, so that what a read is answered is not
  what memory holds and an access may have a side effect (R45, N18). Log 31. -/
  devices : List (BitVec 30)
  /-- How many accesses the devices have answered; an access changes what later ones are answered. Log 31. -/
  deviceAccesses : Nat
  /-- Operand writes buffered in the bus controller, oldest first (R75). Its depth is not in the source; here it has no
  bound and a buffered write never waits for room (DESIGN CHOICE, log 36). -/
  wbuf : List BusWrite
  /-- Access errors waiting to be reported, oldest first (R131). -/
  errors : List PendingError
  /-- The Debug module is in Background Debug mode (R126). -/
  bdm : Bool
  /-- The external accesses made so far, oldest first. Log 29. -/
  log : List ExtAccess
deriving DecidableEq, Repr

/-- What an instruction fetch is answered with. -/
inductive Fetched where
  /-- The aligned longword that contains the address (R102). -/
  | longword (v : Long)
  /-- The word at the address (R102). -/
  | word (w : Half)
  /-- The external fetch ended in a bus error (R133). -/
  | busError
deriving DecidableEq, Repr

/-- The answer to a request of the agenda. -/
inductive Reply where
  | fetched (f : Fetched)
  /-- The value of an operand read, right-justified. -/
  | operand (v : Long)
  /-- A write or a command ended normally. -/
  | done
  /-- An operand write ended in an access error on the local bus (R130). -/
  | accessError
  /-- An operand read ended in a bus error. -/
  | busError
  /-- A register read (R125, R126). -/
  | register (v : Long)
deriving DecidableEq, Repr

/-- One move of one agent (decision D3). The stores of other bus masters, which R51 and R148 name,
are moves too (DESIGN CHOICE, log 32): what memory answers an external fetch with (R2, R45) is not the core's and the Debug
module's writes alone. -/
inductive Move where
  /-- The core executes the instruction at its pc. -/
  | instruction
  /-- The core fetches the next longword of its instruction stream ahead of need (R50, D20). -/
  | prefetch
  /-- The core executes an instruction of its own, `words` long, with no effect on the unit (R67). Any
  length is taken and the words are not examined (R65; DESIGN CHOICE, log 44). -/
  | coreInstruction (words : Nat)
  /-- An instruction of the core writes a general register. -/
  | coreSetReg (r : Reg) (v : Long)
  /-- An instruction of the core jumps: words fetched ahead are dropped. -/
  | coreJump (target : Long)
  /-- An instruction of the core writes the status register. -/
  | coreSetSr (v : Half)
  /-- An instruction fetch by the core or the Debug module (R103). -/
  | fetch (r : Ref)
  /-- An operand read by the core or the Debug module. -/
  | operandRead (r : Ref)
  /-- An operand write by the core or the Debug module. -/
  | operandWrite (r : Ref) (v : Long)
  /-- The line-fill engine brings in one longword (R92); a bus error it meets is told to nobody (log 46). -/
  | fillStep
  /-- The invalidation sequencer clears one entry (R111). -/
  | invStep
  /-- The bus controller performs a buffered write, the k-th oldest (R75). -/
  | drainWrite (k : Nat)
  /-- Another master of the external bus stores one byte (R51, R148); a wider store is several of these. Log 32. -/
  | busMasterStore (a : Long) (v : Byte)
  /-- A waiting access error, the k-th oldest, is reported to the core (R131). -/
  | deliverError (k : Nat)
  /-- The Debug module writes a register (R127). -/
  | debugWrite (rc : CtrlReg) (v : Long)
  /-- The Debug module invalidates one entry, as CPUSHL does (R115). -/
  | debugInvalidate (s : Long)
  /-- A register read by the Debug module (R126). -/
  | bdmRead (rc : CtrlReg)
  /-- The Debug module enters or leaves Background Debug mode, which changes what bdmRead answers and nothing else (log 41).
  -/
  | setBdm (on : Bool)
  /-- Hardware reset (R145). -/
  | hardwareReset
deriving DecidableEq, Repr

/-- The machine. -/
structure State where
  cache : Cache
  core : Core
  plat : Platform
  /-- The moves still to come; with none left the core executes its next instruction. Log 8. -/
  agenda : List Move
  /-- The answer to the last request of the agenda. -/
  reply : Option Reply
  /-- The exceptions raised so far, oldest first. -/
  raised : List Exc
  /-- How many free values have been drawn. Log 7. -/
  draws : Nat
deriving DecidableEq, Repr

/-- Why the machine stops with a fault. -/
inductive Fault where
  /-- The core's own instruction fetch ended in a bus error (R133): a fault of the requesting fetch; what the core is told
  is not in the source. Raised by the core's instruction fetch. Safe: the machine stops where the core would go on. -/
  | fetchBusError
deriving DecidableEq, Repr

/-- Why the machine refuses to go on. -/
inductive Refusal where
  /-- No meaning has been written for the instruction; raised by exec's arms only. Safe. -/
  | notModelled (mnemonic : String)
  /-- A fetch at an address with bit 0 set (R44, decision D3, U18). Raised by every fetch. Safe. -/
  | oddFetchAddress
  /-- A fetch request of size byte: a fetch is of a word or a longword (R41). What it would do is not in the source;
  DESIGN CHOICE, log 33. Raised by fetch requests of the agenda. Safe. -/
  | byteFetch
  /-- An operand reference not aligned on its size (N20, U19). Raised by operand references. Safe. -/
  | misalignedOperand
  /-- A register number outside 0 to 7, which no encoding can write (R61). Raised by a meaning given an ill-formed
  instruction and by coreSetReg. Safe. -/
  | noSuchRegister
  /-- A MOVEC to a control register the section does not assign (R64, D25). Raised by the instruction step. Safe. -/
  | unassignedRc (rc : BitVec 12)
  /-- A CPUSHL whose cache field is not 11 (R62, D16, U23). Raised by the instruction step. Safe. -/
  | cpushlCacheField (cc : BitVec 2)
  /-- An instruction word that is none of the four rows (R66, D25). Raised by the instruction step. Safe. -/
  | outsideUnit (w : Half)
  /-- The instruction step held fewer words than the instruction has; no fetch sequence leads here. Safe. -/
  | tooShort
deriving DecidableEq, Repr

/-- The fill buffer right after reset (R39, D4): no longword valid, none pending; the unspecified fields at zero (DESIGN
CHOICE, log 6). -/
def FillBuffer.reset : FillBuffer :=
  { addr := 0#28, lwvalid := Vector.replicate 4 false, data := Vector.replicate 4 0#32, mru := false,
    cacheable := false, pending := [] }

/-- The unit at power-on (R38, R39): the three registers are cleared; tag, valid bits and data are unspecified and named
zero here (DESIGN CHOICE, log 5); no invalidation has completed. -/
def Cache.reset : Cache :=
  { cacr := 0#32, acr0 := 0#32, acr1 := 0#32, tag := Vector.replicate 32 0#23, valid := Vector.replicate 32 false,
    data := Vector.replicate 128 0#32, fb := FillBuffer.reset, invLeft := 0, cold := true }

/-- The core after reset: PRESUMED, the family's (log 2), and zero for D0 to D7 and A0 to A6 (DESIGN CHOICE, log 3). -/
def Core.reset : Core :=
  { d := Vector.replicate 8 0#32, a := Vector.replicate 8 0#32, pc := Config.resetPc, sr := Config.resetSr,
    prefetch := [] }

/-- The neighbours at power-on: nothing listed, nothing mapped, no device, nothing waiting (log 14, 17, 18, 25, 31). -/
def Platform.reset : Platform :=
  { mem := [], sram := [], sramMap := [], busErrors := [], devices := [], deviceAccesses := 0, wbuf := [],
    errors := [], bdm := false, log := [] }

/-- The machine right after reset. -/
def State.reset : State :=
  { cache := Cache.reset, core := Core.reset, plat := Platform.reset, agenda := [], reply := none, raised := [],
    draws := 0 }

end Sys2Proof.Machine
end

