-- ==== Sys2Proof/Machine/Arrays.lean ====
section
/-! DEFINITION. Reading and writing one entry of an array by a bit-vector index that cannot be out of range. -/

namespace Sys2Proof.Machine

/-- The entry of `v` at index `i`. -/
def look {α : Type} {n m : Nat} (v : Vector α m) (i : BitVec n) (h : 2 ^ n = m := by decide) : α :=
  v[i.toNat]'(h ▸ i.isLt)

/-- `v` with `x` at index `i`. -/
def put {α : Type} {n m : Nat} (v : Vector α m) (i : BitVec n) (x : α) (h : 2 ^ n = m := by decide) : Vector α m :=
  v.set i.toNat x (h ▸ i.isLt)

end Sys2Proof.Machine
end

