-- ==== Sys2Proof/Machine/Operands.lean ====
section
/-! DEFINITION. The two operand forms: Ry of a MOVEC, any general register, and Ax of a CPUSHL, an address register; both are
read as a whole 32-bit value (R113, R120). A number above 7 names no register (log 28). -/

namespace Sys2Proof.Machine

/-- `x[Ry]`, none where the number names no register. -/
def Core.readReg (c : Core) : Reg → Option Long
  | .d n => c.d[n]?
  | .a n => c.a[n]?

/-- Writing a general register, as an instruction of the core does. -/
def Core.writeReg (c : Core) (r : Reg) (v : Long) : Core :=
  match r with
  | .d n => { c with d := c.d.setIfInBounds n v }
  | .a n => { c with a := c.a.setIfInBounds n v }

end Sys2Proof.Machine
end

