-- ==== Sys2Proof/Machine/Flags.lean ====
section
/-! DEFINITION. The status register as the unit reads it: the supervisor bit (10_state.md section 6, R137). No instruction of
the unit reads or writes a condition code (R113, R120 to R122: "Flags written: none"), so there is no flag computation. -/

namespace Sys2Proof.Machine

/-- The supervisor bit, bit 13 of the status register (PRESUMED, log 1). -/
def Core.supervisor (c : Core) : Bool := c.sr.getLsbD 13

/-- The mode that a reference of the core carries and that a privileged instruction checks (R41, R132). -/
def State.supervisor (s : State) : Bool := s.core.supervisor

/-- The status register with the supervisor bit set, all else kept (R136; log 20). -/
def supervisorSet (sr : Half) : Half := sr ||| 0x2000#16

end Sys2Proof.Machine
end

