-- ==== Sys2Proof/Machine/Registers.lean ====
section
/-! DEFINITION. The fields of CACR and of the ACRs (R12 to R32), the value a write leaves (R22, R32), and the fields of an
address (R80). -/

namespace Sys2Proof.Machine

/-- CENB, bit 31: the cache is enabled (R13). -/
def Cache.cenb (c : Cache) : Bool := c.cacr.getLsbD 31

/-- CPDI, bit 28: CPUSHL invalidation is disabled (R14). -/
def Cache.cpdi (c : Cache) : Bool := c.cacr.getLsbD 28

/-- CFRZ, bit 27: valid lines are frozen (R15). -/
def Cache.cfrz (c : Cache) : Bool := c.cacr.getLsbD 27

/-- CEIB, bit 10: noncacheable bursts are enabled (R17). -/
def Cache.ceib (c : Cache) : Bool := c.cacr.getLsbD 10

/-- DCM, bit 9: the default is noncacheable (R18). -/
def Cache.dcm (c : Cache) : Bool := c.cacr.getLsbD 9

/-- DBWE, bit 8: the default is buffered writes (R19). -/
def Cache.dbwe (c : Cache) : Bool := c.cacr.getLsbD 8

/-- DWP, bit 5: the default is write protection (R20). -/
def Cache.dwp (c : Cache) : Bool := c.cacr.getLsbD 5

/-- CLNF, bits 1:0: the fetch size of a miss (R21). -/
def Cache.clnf (c : Cache) : BitVec 2 := c.cacr.extractLsb' 0 2

/-- Bit 24 of a value written to CACR: the invalidate-all command (R16, R110). -/
def cinvBit (v : Long) : Bool := v.getLsbD 24

/-- AB, bits 31:24 of an ACR: the address base (R25). -/
def acrBase (acr : Long) : BitVec 8 := acr.extractLsb' 24 8

/-- AM, bits 23:16 of an ACR: a set bit leaves the base bit out of the comparison (R26). -/
def acrMaskField (acr : Long) : BitVec 8 := acr.extractLsb' 16 8

/-- EN, bit 15 of an ACR (R27). -/
def acrEnabled (acr : Long) : Bool := acr.getLsbD 15

/-- SM, bits 14:13 of an ACR (R28). -/
def acrMode (acr : Long) : BitVec 2 := acr.extractLsb' 13 2

/-- CM, bit 6 of an ACR: noncacheable (R29). -/
def acrCm (acr : Long) : Bool := acr.getLsbD 6

/-- BWE, bit 5 of an ACR: buffered writes (R30). -/
def acrBwe (acr : Long) : Bool := acr.getLsbD 5

/-- WP, bit 2 of an ACR: write protection (R31). -/
def acrWp (acr : Long) : Bool := acr.getLsbD 2

/-- The implemented bits of a register (R12, R22, R24, R32): all that a write stores and all that a BDM read shows. -/
def CtrlReg.mask : CtrlReg → Long
  | .cacr => Config.cacrMask
  | .acr0 => Config.acrMask
  | .acr1 => Config.acrMask

/-- The stored value of a register. -/
def Cache.ctrl (c : Cache) : CtrlReg → Long
  | .cacr => c.cacr
  | .acr0 => c.acr0
  | .acr1 => c.acr1

/-- What a BDM read returns (R22, R32, R126). -/
def Cache.bdmValue (c : Cache) (rc : CtrlReg) : Long := c.ctrl rc &&& rc.mask

/-- `tagof(a)`, address bits [31:9] (R80). -/
def tagOf (a : Long) : BitVec 23 := a.extractLsb' 9 23

/-- `idx(a)`, address bits [8:4] (R80). -/
def idxOf (a : Long) : BitVec 5 := a.extractLsb' 4 5

/-- The data-array index, address bits [8:2] (R80). -/
def dataIdx (a : Long) : BitVec 7 := a.extractLsb' 2 7

/-- `lw(a)`, address bits [3:2] (R80). -/
def lwOf (a : Long) : BitVec 2 := a.extractLsb' 2 2

/-- `lineaddr(a)`, address bits [31:4] (R80). -/
def lineOf (a : Long) : BitVec 28 := a.extractLsb' 4 28

/-- The longword number of an address, bits [31:2]. -/
def longNumber (a : Long) : BitVec 30 := a.extractLsb' 2 30

/-- `a and not 3`: the address of the longword that contains `a`. -/
def longBase (a : Long) : Long := a &&& 0xFFFFFFFC#32

/-- `a and 0xFFFFFFF0`: the address of the line that contains `a`. -/
def lineBase (a : Long) : Long := a &&& 0xFFFFFFF0#32

/-- The address of longword `k` of a line. -/
def lineLong (line : BitVec 28) (k : BitVec 2) : Long := (line.setWidth 32 <<< 4) ||| (k.setWidth 32 <<< 2)

/-- The line address made of a tag and an index (R80). -/
def lineAddr (tag : BitVec 23) (i : BitVec 5) : BitVec 28 := (tag.setWidth 28 <<< 5) ||| i.setWidth 28

/-- The data-array index of longword `k` of line `i`: 4i + k (R34, R80). -/
def dataIndex (i : BitVec 5) (k : BitVec 2) : BitVec 7 := (i.setWidth 7 <<< 2) ||| k.setWidth 7

/-- The array index of the buffered line, `fb.addr[4:0]` (R94, R95). -/
def FillBuffer.idx (fb : FillBuffer) : BitVec 5 := fb.addr.extractLsb' 0 5

/-- The tag of the buffered line, `fb.addr[27:5]` (R95). -/
def FillBuffer.tag (fb : FillBuffer) : BitVec 23 := fb.addr.extractLsb' 5 23

end Sys2Proof.Machine
end

