-- ==== Sys2Proof/Machine/Lines.lean ====
section
/-! DEFINITION. The operations on the arrays and the fill buffer alone: lookup (R81 to R83), line transfer (R95, R96),
loading and filling the buffer (R91, R92), invalidation (R111 to R118), writing a control register (R120 to R122). -/

namespace Sys2Proof.Machine

/-- The valid bit of an entry. -/
def Cache.validAt (c : Cache) (i : BitVec 5) : Bool := look c.valid i

/-- The tag of an entry. -/
def Cache.tagAt (c : Cache) (i : BitVec 5) : BitVec 23 := look c.tag i

/-- One entry of the data array. -/
def Cache.dataAt (c : Cache) (j : BitVec 7) : Long := look c.data j

/-- A longword valid bit of the buffer. -/
def FillBuffer.lwvalidAt (fb : FillBuffer) (k : BitVec 2) : Bool := look fb.lwvalid k

/-- A longword of the buffer. -/
def FillBuffer.dataAt (fb : FillBuffer) (k : BitVec 2) : Long := look fb.data k

/-- ArrayHit (R81). -/
def Cache.arrayHit (c : Cache) (a : Long) : Bool := c.validAt (idxOf a) && decide (c.tagAt (idxOf a) = tagOf a)

/-- FbLineMatch (R82). -/
def FillBuffer.lineMatch (fb : FillBuffer) (a : Long) : Bool := decide (fb.addr = lineOf a)

/-- FbHit (R82). -/
def FillBuffer.hit (fb : FillBuffer) (a : Long) : Bool := fb.lineMatch a && fb.lwvalidAt (lwOf a)

/-- The longword asked for is of the buffered line and still on its way (R100). -/
def FillBuffer.onItsWay (fb : FillBuffer) (a : Long) : Bool :=
  fb.lineMatch a && !fb.lwvalidAt (lwOf a) && fb.pending.contains (lwOf a)

/-- The entire line is present (R95). -/
def FillBuffer.entire (fb : FillBuffer) : Bool :=
  fb.lwvalidAt 0#2 && fb.lwvalidAt 1#2 && fb.lwvalidAt 2#2 && fb.lwvalidAt 3#2

/-- The size of the external fetch of a miss. -/
inductive FetchSize where
  | line
  | longword
deriving DecidableEq, Repr

/-- FetchSize(CLNF, lw) (R89, Tables 4-1 and 4-4). -/
def fetchSize (clnf : BitVec 2) (lw : BitVec 2) : FetchSize :=
  if (clnf = 0b00#2 ∧ lw = 3#2) ∨ (clnf = 0b01#2 ∧ 2#2 ≤ lw) then .longword else .line

/-- The longwords of a line fetch after the critical one, in order (R90, R92). -/
def restOfLine (lw : BitVec 2) : List (BitVec 2) := [lw + 1#2, lw + 2#2, lw + 3#2]

/-- The data array with the four entries of line `i` replaced. -/
def putLine (data : Vector Long 128) (i : BitVec 5) (fb : FillBuffer) : Vector Long 128 :=
  put (put (put (put data (dataIndex i 0#2) (fb.dataAt 0#2)) (dataIndex i 1#2) (fb.dataAt 1#2))
    (dataIndex i 2#2) (fb.dataAt 2#2)) (dataIndex i 3#2) (fb.dataAt 3#2)

/-- The condition of the line transfer (R95), the freeze condition included (R96). -/
def Cache.transferAllowed (c : Cache) : Bool :=
  c.fb.entire && c.fb.mru && c.fb.cacheable && (!c.cfrz || !c.validAt c.fb.idx)

/-- Transfer (R95): the buffered line becomes the array's line at its index, in one step. -/
def Cache.transfer (c : Cache) : Cache :=
  if c.transferAllowed then
    { c with
      tag := put c.tag c.fb.idx c.fb.tag
      valid := put c.valid c.fb.idx true
      data := putLine c.data c.fb.idx c.fb }
  else c

/-- The buffer taken over by a miss (R91): new address, no longword valid, most recently used. -/
def Cache.loadBuffer (c : Cache) (a : Long) (cacheable : Bool) : Cache :=
  { c with
    fb := { addr := lineOf a, lwvalid := Vector.replicate 4 false, data := c.fb.data, mru := true,
            cacheable := cacheable, pending := [] } }

/-- A longword that arrived: it is written and becomes valid (R91, R92). -/
def FillBuffer.arrive (fb : FillBuffer) (k : BitVec 2) (v : Long) : FillBuffer :=
  { fb with data := put fb.data k v, lwvalid := put fb.lwvalid k true }

/-- The indicator set or cleared (R93, R94). -/
def Cache.setMru (c : Cache) (b : Bool) : Cache := { c with fb := { c.fb with mru := b } }

/-- What an array hit does to the indicator (R94): cleared if the location is the buffered line's. -/
def Cache.noteArrayHit (c : Cache) (a : Long) : Cache := if idxOf a = c.fb.idx then c.setMru false else c

/-- The buffer emptied (R116): no longword valid, none still to arrive. R116 lets a model discard the longwords still to
arrive; that their bus accesses are then not made either, and a next miss does not wait for them, is the model's own (N11;
DESIGN CHOICE, log 40). -/
def FillBuffer.empty (fb : FillBuffer) : FillBuffer := { fb with lwvalid := Vector.replicate 4 false, pending := [] }

/-- The invalidate-all sequence starts (R110, R111). One that is running starts again with all 32 entries; a MOVEC without
CINV and a CPUSHL let a running one go on. The source does not say (N26); R118 gives the end state only (DESIGN CHOICE,
log 39). -/
def Cache.startInvalidate (c : Cache) : Cache := { c with invLeft := Config.invCycles }

/-- The end of the sequence: the fill-buffer part (R116 (a)), and the unit is no longer cold (R53, R147). -/
def Cache.endInvalidate (clears : Bool) (c : Cache) : Cache :=
  { c with cold := false, fb := if clears then c.fb.empty else c.fb }

/-- One machine cycle of the sequence (R111): one entry cleared, from 31 down (log 10); after the last, its end. -/
def Cache.invStep (clears : Bool) (c : Cache) : Cache :=
  match c.invLeft with
  | 0 => c
  | n + 1 =>
    let cleared := { c with valid := put c.valid (BitVec.ofNat 5 n) false, invLeft := n }
    if n = 0 then cleared.endInvalidate clears else cleared

/-- Several cycles of the sequence. -/
def Cache.invSteps (clears : Bool) : Nat → Cache → Cache
  | 0, c => c
  | n + 1, c => Cache.invSteps clears n (c.invStep clears)

/-- `wait until inv_busy = 0` (R112): the rest of the sequence runs (log 9). -/
def Cache.finishInvalidate (clears : Bool) (c : Cache) : Cache := Cache.invSteps clears c.invLeft c

/-- One entry invalidated (R113), with the fill-buffer part (R116 (b)). -/
def Cache.invalidateEntry (clears : Bool) (i : BitVec 5) (c : Cache) : Cache :=
  { c with
    valid := put c.valid i false
    fb := if clears && decide (i = c.fb.idx) then c.fb.empty else c.fb }

/-- CPUSHL's effect on the unit for the address value `s` (R113, R114). -/
def Cache.pushLine (clears : Bool) (s : Long) (c : Cache) : Cache :=
  if c.cpdi then c else c.invalidateEntry clears (idxOf s)

/-- Writing a control register (R120 to R122): the implemented bits are stored at once (R124), and bit 24 of a value
written to CACR starts the invalidate-all sequence (R110, R118). -/
def Cache.writeCtrl (c : Cache) (rc : CtrlReg) (v : Long) : Cache :=
  match rc with
  | .cacr =>
    let stored := { c with cacr := v &&& Config.cacrMask }
    if cinvBit v then stored.startInvalidate else stored
  | .acr0 => { c with acr0 := v &&& Config.acrMask }
  | .acr1 => { c with acr1 := v &&& Config.acrMask }

end Sys2Proof.Machine
end

