-- ==== Sys2Proof/Machine/Ops.lean ====
section
/-! DEFINITION. The named operations over the whole state that the meanings and the moves share. -/

namespace Sys2Proof.Machine

/-- The vector number of an exception (R130, R132, decision D17; PRESUMED). -/
def Exc.vector : Exc → Nat
  | .accessError => Config.vecAccessError
  | .privilegeViolation => Config.vecPrivilege

/-- TAKING AN EXCEPTION, as far as the spec describes it (R123, R132, R136): it is raised; the core goes on in supervisor
mode at a new address, which the source does not give (a free value, even because fetches are word-aligned); instruction
words fetched ahead are dropped; no state of the unit is saved or changed. What the core saves, and where, is outside the
spec (R136, log 20). So is nesting, which R136 says is not in the source: here every exception is taken in this same way at
any time, also right after another one, with none masked and no halt (DESIGN CHOICE, log 45). -/
def State.takeException (s : State) (e : Exc) : State :=
  { s with
    core := { s.core with
      sr := supervisorSet s.core.sr
      pc := Config.handlerAddress s.draws &&& 0xFFFFFFFE#32
      prefetch := [] }
    raised := s.raised ++ [e]
    draws := s.draws + 1 }

/-- The pc moves past an instruction of `words` words, whose words leave the core's instruction stream. R65 gives the lengths
only; that the pc moves by two for each word, and wraps past the top of memory, is PRESUMED, the family's (N3, log 34). -/
def State.advance (s : State) (words : Nat) : State :=
  { s with
    core := { s.core with
      pc := s.core.pc + BitVec.ofNat 32 (2 * words)
      prefetch := s.core.prefetch.drop words } }

/-- A control register written (R120 to R122, R127). -/
def State.writeCtrl (s : State) (rc : CtrlReg) (v : Long) : State := { s with cache := s.cache.writeCtrl rc v }

/-- One entry invalidated as CPUSHL does (R113 to R116). -/
def State.pushLine (s : State) (v : Long) : State :=
  { s with cache := s.cache.pushLine Config.cpushlClearsFillbuf v }

/-- One cycle of the invalidation sequencer (R111). -/
def State.invStep (s : State) : State := { s with cache := s.cache.invStep Config.cinvClearsFillbuf }

/-- The hold of R112: the rest of the invalidate-all sequence runs. -/
def State.finishInvalidate (s : State) : State :=
  { s with cache := s.cache.finishInvalidate Config.cinvClearsFillbuf }

/-- The unit after a hardware reset (R38, R39, R145): the registers cleared, the arrays untouched, no longword valid in the
buffer, none pending, no sequence running; the buffer's other fields are free values. Decision D4 says only that nothing is
pending afterwards: that the bus accesses of a burst in progress are then not made either, and no later fetch waits for them,
is the model's own (N11; DESIGN CHOICE, log 40). -/
def Cache.hardwareReset (c : Cache) (draws : Nat) : Cache :=
  { c with
    cacr := 0#32
    acr0 := 0#32
    acr1 := 0#32
    fb := { addr := Config.anyLineAddr draws
            lwvalid := Vector.replicate 4 false
            data := Vector.ofFn fun k => Config.anyLongword (draws + k.val)
            mru := Config.anyBit draws
            cacheable := Config.anyBit (draws + 1)
            pending := [] }
    invLeft := 0
    cold := true }

/-- Hardware reset (R145): the unit as above; of the core only the pc, the status register and the words fetched ahead, at
the values of State.reset (log 2, log 3). R145 gives the effect on the unit only; that memory, the bus controller, the
Debug module's mode and the SRAM module, its mapping as its contents, are as before is the model's choice (log 42). -/
def State.hardwareReset (s : State) : State :=
  { s with
    cache := s.cache.hardwareReset s.draws
    core := { s.core with pc := Config.resetPc, sr := Config.resetSr, prefetch := [] }
    draws := s.draws + 4 }

end Sys2Proof.Machine
end

