-- ==== Sys2Proof/Machine/Movec.lean ====
section
/-! DEFINITION. The three MOVEC instructions (43_movec.md, R120 to R124). -/

namespace Sys2Proof.Machine

/-- A privileged instruction (R123, R132): in user mode the privilege violation is taken before anything else; in supervisor
mode its effect is given by `run`. -/
def privileged (s : State) (run : State → Host.Outcome State Fault Refusal) : Host.Outcome State Fault Refusal :=
  if s.supervisor then run s else .next (s.takeException .privilegeViolation)

/-- MOVEC Ry,Rc (R120 to R122): the whole of Ry is written to the register. -/
def movec (rc : CtrlReg) (ry : Reg) (s : State) : Host.Outcome State Fault Refusal :=
  privileged s fun t =>
    match t.core.readReg ry with
    | some v => .next ((t.writeCtrl rc v).advance 2)
    | none => .refused .noSuchRegister

/-- `MOVEC Ry,CACR` (R120). -/
def execMovecCacr (ry : Reg) (s : State) : Host.Outcome State Fault Refusal := movec .cacr ry s

/-- `MOVEC Ry,ACR0` (R121). -/
def execMovecAcr0 (ry : Reg) (s : State) : Host.Outcome State Fault Refusal := movec .acr0 ry s

/-- `MOVEC Ry,ACR1` (R122). -/
def execMovecAcr1 (ry : Reg) (s : State) : Host.Outcome State Fault Refusal := movec .acr1 ry s

end Sys2Proof.Machine
end

