-- ==== Sys2Proof/Machine/Cpushl.lean ====
section
/-! DEFINITION. CPUSHL (42_invalidation.md, R113, R114). -/

namespace Sys2Proof.Machine

/-- `CPUSHL (Ax)` (R113): the privilege check first, also with CPDI = 1 (R114). -/
def execCpushl (ax : Nat) (s : State) : Host.Outcome State Fault Refusal :=
  privileged s fun t =>
    match t.core.readReg (.a ax) with
    | some v => .next ((t.pushLine v).advance 1)
    | none => .refused .noSuchRegister

end Sys2Proof.Machine
end

