-- ==== Sys2Proof/Machine/Dispatch.lean ====
section
/-! DEFINITION. One arm per instruction of the opcode table, each one direct call of its meaning. -/

namespace Sys2Proof.Machine

/-- The instruction's effect on the state. -/
def exec (i : Instr) (s : State) : Host.Outcome State Fault Refusal :=
  match i with
  | .movecCacr ry => Sys2Proof.Machine.execMovecCacr ry s
  | .movecAcr0 ry => Sys2Proof.Machine.execMovecAcr0 ry s
  | .movecAcr1 ry => Sys2Proof.Machine.execMovecAcr1 ry s
  | .cpushl ax => Sys2Proof.Machine.execCpushl ax s

end Sys2Proof.Machine
end

