-- ==== Sys2Proof/Machine/Attributes.lean ====
section
/-! DEFINITION. The effective attributes of a reference (40_attributes.md, R70 to R74). -/

namespace Sys2Proof.Machine

/-- The three attributes (R70). -/
structure Attr where
  cacheable : Bool
  bufwrite : Bool
  wp : Bool
deriving DecidableEq, Repr

/-- The privilege condition of the SM field (R28, R71). -/
def modeMatch (sm : BitVec 2) (super : Bool) : Bool :=
  sm.getLsbD 1 || (decide (sm = 0b00#2) && !super) || (decide (sm = 0b01#2) && super)

/-- AcrMatch (R71): enabled, privilege condition met, unmasked address bits equal the base. -/
def acrMatch (acr : Long) (r : Ref) : Bool :=
  acrEnabled acr && modeMatch (acrMode acr) r.super &&
    decide ((r.addr.extractLsb' 24 8 ^^^ acrBase acr) &&& ~~~ acrMaskField acr = 0#8)

/-- The attributes an ACR gives. -/
def acrAttr (acr : Long) : Attr := { cacheable := !acrCm acr, bufwrite := acrBwe acr, wp := acrWp acr }

/-- The attributes the CACR defaults give. -/
def Cache.defaultAttr (c : Cache) : Attr := { cacheable := !c.dcm, bufwrite := c.dbwe, wp := c.dwp }

/-- EffAttr (R72): ACR0 if it matches, else ACR1 if it matches, else the CACR defaults. -/
def Cache.effAttr (c : Cache) (r : Ref) : Attr :=
  if acrMatch c.acr0 r then acrAttr c.acr0
  else if acrMatch c.acr1 r then acrAttr c.acr1
  else c.defaultAttr

end Sys2Proof.Machine
end

