-- ==== Sys2Proof/Machine/Memory.lean ====
section
/-! DEFINITION. Memory as a list of (address, byte) pairs in canonical form: addresses strictly rising and below 2^32, no
entry equal to what an unlisted address reads as (log 14). Byte order is decided here once: big-endian (R43, D1, log 15). -/

namespace Sys2Proof.Machine

/-- Memory: the external memory and the SRAM module's contents both have this form. -/
abbrev Memory := List Host.Cell

/-- Reading one byte. -/
def Memory.readByte : Memory → Nat → Byte
  | [], _ => Config.unlistedByte
  | (b, v) :: rest, a => if a = b then v else Memory.readByte rest a

/-- Writing one byte, keeping the canonical form. -/
def Memory.writeByte : Memory → Nat → Byte → Memory
  | [], a, v => if v = Config.unlistedByte then [] else [(a, v)]
  | (b, w) :: rest, a, v =>
    if a < b then (if v = Config.unlistedByte then (b, w) :: rest else (a, v) :: (b, w) :: rest)
    else if a = b then (if v = Config.unlistedByte then rest else (a, v) :: rest)
    else (b, w) :: Memory.writeByte rest a v

/-- The entries from a lower bound on are in canonical form. -/
def Memory.wfFrom : Nat → Memory → Bool
  | _, [] => true
  | lo, (b, w) :: rest =>
    decide (lo ≤ b) && decide (b < 4294967296) && decide (w ≠ Config.unlistedByte) && Memory.wfFrom (b + 1) rest

/-- The canonical form holds. -/
def Memory.wf (m : Memory) : Bool := Memory.wfFrom 0 m

/-- The bytes of consecutive addresses, the address wrapping at 2^32. -/
def Memory.readBytes (m : Memory) : Long → Nat → List Byte
  | _, 0 => []
  | a, n + 1 => m.readByte a.toNat :: m.readBytes (a + 1#32) n

/-- Storing bytes at consecutive addresses, the address wrapping at 2^32. -/
def Memory.writeBytes (m : Memory) : Long → List Byte → Memory
  | _, [] => m
  | a, b :: rest => (m.writeByte a.toNat b).writeBytes (a + 1#32) rest

/-- The 16-bit word at an address. -/
def Memory.readHalf (m : Memory) (a : Long) : Half := (m.readByte a.toNat).setWidth 16 <<< 8 ||| (m.readByte (a + 1#32).toNat).setWidth 16

/-- The longword at an address: the byte at the lowest address is bits [31:24] (R43). -/
def Memory.readLong (m : Memory) (a : Long) : Long :=
  (m.readByte a.toNat).setWidth 32 <<< 24 ||| (m.readByte (a + 1#32).toNat).setWidth 32 <<< 16 |||
    (m.readByte (a + 2#32).toNat).setWidth 32 <<< 8 ||| (m.readByte (a + 3#32).toNat).setWidth 32

/-- How many bytes a size is. -/
def RefSize.bytes : RefSize → Nat
  | .byte => 1
  | .word => 2
  | .longword => 4

/-- The bytes of a right-justified value, the most significant first. -/
def RefSize.split (size : RefSize) (v : Long) : List Byte :=
  match size with
  | .byte => [v.extractLsb' 0 8]
  | .word => [v.extractLsb' 8 8, v.extractLsb' 0 8]
  | .longword => [v.extractLsb' 24 8, v.extractLsb' 16 8, v.extractLsb' 8 8, v.extractLsb' 0 8]

/-- Reading an operand of a size, right-justified. -/
def Memory.readSized (m : Memory) (a : Long) : RefSize → Long
  | .byte => (m.readByte a.toNat).setWidth 32
  | .word => (m.readHalf a).setWidth 32
  | .longword => m.readLong a

/-- The low bits of a value that a size keeps. -/
def RefSize.truncate (size : RefSize) (v : Long) : Long :=
  match size with
  | .byte => v &&& 0xFF#32
  | .word => v &&& 0xFFFF#32
  | .longword => v

/-- Writing an operand of a size. -/
def Memory.writeSized (m : Memory) (a : Long) (size : RefSize) (v : Long) : Memory := m.writeBytes a (size.split v)

/-- The byte addresses of an operand, wrapping at 2^32. -/
def operandBytes (a : Long) (size : RefSize) : List Long := (List.range size.bytes).map fun k => a + BitVec.ofNat 32 k

/-- An address is aligned on a size. -/
def RefSize.aligned (size : RefSize) (a : Long) : Bool :=
  match size with
  | .byte => true
  | .word => !a.getLsbD 0
  | .longword => !a.getLsbD 0 && !a.getLsbD 1

end Sys2Proof.Machine
end

