-- ==== Sys2Proof/Machine/Bus.lean ====
section
/-! DEFINITION. The external bus with its devices, the bus controller's write buffer and the SRAM module (R45 to R48, R75,
R131, R133). -/

namespace Sys2Proof.Machine

/-- A region services a reference: address, kind, privilege, initiator and size all admitted (R2, R41, R46). -/
def SramRegion.maps (g : SramRegion) (r : Ref) : Bool :=
  decide (g.lo ≤ r.addr) && decide (r.addr ≤ g.hi) &&
    (match r.kind with
     | .fetch => g.fetches
     | .read => g.reads
     | .write => g.writes) &&
    (if r.super then g.super else g.user) &&
    (match r.src with
     | .core => g.core
     | .debug => g.debug) &&
    (match r.size with
     | .byte => g.bytes
     | .word => g.words
     | .longword => g.longwords)

/-- SramMaps(ref) (R2, R46): some region services it. Log 17. -/
def Platform.sramMaps (p : Platform) (r : Ref) : Bool := p.sramMap.any (·.maps r)

/-- The external bus ends an access to this longword with an error (R131, R133). Log 18. -/
def Platform.busErrorAt (p : Platform) (a : Long) : Bool := p.busErrors.contains (longNumber a)

/-- A device answers accesses to this longword (R45, N18). Log 31. -/
def Platform.deviceAt (p : Platform) (a : Long) : Bool := p.devices.contains (longNumber a)

/-- What the external bus delivers for a read, the oracle ExtFetch (R2, R45): what memory holds now, or a free value where a
device answers. Right-justified. Log 31. All bytes of a word or a longword are read at one moment, the model's choice: R45
says the source says nothing of single-copy atomicity (DESIGN CHOICE, log 43). -/
def Platform.externalRead (p : Platform) (a : Long) (size : RefSize) : Long :=
  if p.deviceAt a then size.truncate (Config.deviceAnswer p.deviceAccesses a) else Memory.readSized p.mem a size

/-- The side effect of an access: none on memory; a device has answered one more access, so that later answers are other free
values (R45, N18). What else a device does, a store to memory or an error, comes as moves and data of the state (log 31). -/
def Platform.touch (p : Platform) (a : Long) : Platform :=
  if p.deviceAt a then { p with deviceAccesses := p.deviceAccesses + 1 } else p

/-- A store as the external bus delivers it: to memory, or to a device, which changes no memory (log 31). -/
def Platform.store (p : Platform) (a : Long) (size : RefSize) (v : Long) : Platform :=
  if p.deviceAt a then p.touch a else { p with mem := Memory.writeSized p.mem a size v }

/-- Another bus master stores one byte (R51, R148, log 32). Where the bus ends its access with an error nothing is stored; the
error is that master's. It is no access of the unit or the core, so it is not logged. -/
def Platform.busMasterStore (p : Platform) (a : Long) (v : Byte) : Platform :=
  if p.busErrorAt a then p else p.store a .byte (v.setWidth 32)

/-- An external access is made. -/
def Platform.access (p : Platform) (x : ExtAccess) : Platform := { p with log := p.log ++ [x] }

/-- An access error to be reported later (R131). -/
def Platform.addError (p : Platform) (e : PendingError) : Platform := { p with errors := p.errors ++ [e] }

/-- An operand write performed on the external bus: it reaches memory or a device, or the bus reports an error (R75, R131).
That a write the bus reports an error for stores nothing is the model's choice (log 18). So is its single-copy atomicity,
of which R45 says the source says nothing: all bytes of the operand, of a buffered write too, reach memory at one moment,
with no other access between them (DESIGN CHOICE, log 43). -/
def Platform.performWrite (p : Platform) (w : BusWrite) : Platform :=
  let q := p.access (.operandWrite w.addr w.size)
  if p.busErrorAt w.addr then q.addError { src := w.src, cause := .busError }
  else q.store w.addr w.size w.value

/-- Several writes performed in order. -/
def Platform.performWrites : List BusWrite → Platform → Platform
  | [], p => p
  | w :: rest, p => Platform.performWrites rest (p.performWrite w)

/-- A buffered write stores to a byte of an operand. -/
def BusWrite.overlaps (w : BusWrite) (a : Long) (size : RefSize) : Bool :=
  (operandBytes w.addr w.size).any fun b => (operandBytes a size).contains b

/-- What the bus controller does with buffered writes before an unbuffered one (R48 (a)): those to a byte of its operand are
performed first, oldest first, for every external fetch after it returns the data it wrote, and an older write that landed
later would undo that. The others stay in the write buffer (log 37). -/
def Platform.performOverlapping (p : Platform) (a : Long) (size : RefSize) : Platform :=
  Platform.performWrites (p.wbuf.filter (·.overlaps a size))
    { p with wbuf := p.wbuf.filter fun w => !w.overlaps a size }

/-- What the bus controller does with buffered writes before an external fetch (R48 (b), decision D8): all of them first,
or none, as the open constant says. -/
def Platform.settleWrites (p : Platform) : Platform :=
  match p.wbuf with
  | [] => p
  | w :: rest =>
    if Config.bufwriteBeforeLaterFetch then Platform.performWrites (w :: rest) { p with wbuf := [] } else p

/-- The bus controller performs the k-th buffered write (R75, U26); nothing where there is none. -/
def Platform.drainWrite (p : Platform) (k : Nat) : Platform :=
  match p.wbuf[k]? with
  | none => p
  | some w => { p with wbuf := p.wbuf.eraseIdx k }.performWrite w

end Sys2Proof.Machine
end

