-- ==== Sys2Proof/Machine/Fetch.lean ====
section
/-! DEFINITION. One instruction fetch (41_fetch_linefill.md): the algorithm of R105, and the line-fill engine of R92. -/

namespace Sys2Proof.Machine

/-- FillStep (R92): the first pending longword arrives as the external bus delivers it; where the bus reports an error it
does not, and the rest of the burst is abandoned (R133, decision D21). Nothing where none is pending. R133 and D21 make the
error a fault of the requesting fetch, but that fetch has been answered with the critical longword by then (R91), and they
name nobody else: here the error is told to nobody, with no fault, no exception and no reply, and the longwords that arrived
before it stay valid (DESIGN CHOICE, log 46). -/
def State.fillStep (s : State) : State :=
  match s.cache.fb.pending with
  | [] => s
  | k :: rest =>
    let a := lineLong s.cache.fb.addr k
    let plat := s.plat.access (.beat a)
    if s.plat.busErrorAt a then
      { s with plat := plat, cache := { s.cache with fb := { s.cache.fb with pending := [] } } }
    else
      { s with
        plat := plat.touch a
        cache := { s.cache with
          fb := { (s.cache.fb.arrive k (plat.externalRead a .longword)) with pending := rest } } }

/-- Several steps of the line-fill engine. -/
def State.fillSteps : Nat → State → State
  | 0, s => s
  | n + 1, s => State.fillSteps n s.fillStep

/-- `wait until fb.pending is empty` (R101): the burst in progress ends (log 9), by its last longword or by a bus error, of
which the waiting fetch is not told (log 46). -/
def State.finishFill (s : State) : State := State.fillSteps s.cache.fb.pending.length s

/-- `wait until fb.lwvalid[lw(a)] = 1` (R100), for at most `n` steps of the engine. -/
def State.awaitLongword (a : Long) : Nat → State → State
  | 0, s => s
  | n + 1, s => if s.cache.fb.onItsWay a then State.awaitLongword a n s.fillStep else s

/-- `ExtFetch(a and not 3, longword)` (R45). The oracle ExtFetch (R2) is `Platform.externalRead`: what memory holds now, which
other bus masters store to as well (log 32), or a device's free answer, with its side effect (log 31). -/
def State.extLongword (s : State) (a : Long) : Fetched × State :=
  let plat := s.plat.settleWrites.access (.fetchLongword (longBase a))
  if plat.busErrorAt a then (.busError, { s with plat := plat })
  else (.longword (plat.externalRead (longBase a) .longword), { s with plat := plat.touch a })

/-- `ExtFetch(a, word)` (R45, R102). -/
def State.extWord (s : State) (a : Long) : Fetched × State :=
  let plat := s.plat.settleWrites.access (.fetchWord a)
  if plat.busErrorAt a then (.busError, { s with plat := plat })
  else (.word ((plat.externalRead a .word).setWidth 16), { s with plat := plat.touch a })

/-- A fetch with the cache disabled (R85, R102): word sized at an odd word address for a requester that asks for a word, else
longword sized. A request of size byte does not reach here from the agenda (log 33); given one, it acts as for a longword. -/
def State.uncachedFetch (s : State) (r : Ref) : Fetched × State :=
  if r.addr.getLsbD 1 && decide (r.size = .word) then s.extWord r.addr else s.extLongword r.addr

/-- A fetch answered from the memory array (R81, R94). -/
def State.answerArray (s : State) (a : Long) : Fetched × State :=
  (.longword (s.cache.dataAt (dataIdx a)), { s with cache := s.cache.noteArrayHit a })

/-- A fetch answered from the fill buffer (R82, R93). -/
def State.answerBuffer (s : State) (a : Long) : Fetched × State :=
  (.longword (s.cache.fb.dataAt (lwOf a)), { s with cache := s.cache.setMru true })

/-- The line fetch of a miss (R90, R91): the critical longword first, the other three pending. -/
def State.lineFetch (s : State) (a : Long) : Fetched × State :=
  let plat := (s.plat.settleWrites.access (.fetchLine (lineBase a))).access (.beat (longBase a))
  if plat.busErrorAt a then (.busError, { s with plat := plat })
  else
    let v := plat.externalRead (longBase a) .longword
    (.longword v,
      { s with
        plat := plat.touch a
        cache := { s.cache with
          fb := { (s.cache.fb.arrive (lwOf a) v) with pending := restOfLine (lwOf a) } } })

/-- The longword fetch of a miss (R99): the one longword is loaded into the buffer. -/
def State.longwordFetch (s : State) (a : Long) : Fetched × State :=
  match s.extLongword a with
  | (.longword v, t) => (.longword v, { t with cache := { t.cache with fb := t.cache.fb.arrive (lwOf a) v } })
  | (f, t) => (f, t)

/-- A miss (R87): the burst in progress ends (R101), the old buffer is judged for transfer (R95), the buffer is taken over
(R91) and the external fetch of the size of R89 is made. -/
def State.miss (s : State) (a : Long) (cacheable : Bool) : Fetched × State :=
  let t := s.finishFill
  let u := { t with cache := t.cache.transfer.loadBuffer a cacheable }
  match fetchSize u.cache.clnf (lwOf a) with
  | .line => u.lineFetch a
  | .longword => u.longwordFetch a

/-- A fetch that the buffer takes part in: cacheable, or CEIB = 1 (R82, R83, R87, R97, R100). Where the burst is abandoned
by a bus error before the longword it waits for has arrived, the source and the rules give the wait no end; here the fetch
looks its address up again, which can be a miss with an external fetch of its own (DESIGN CHOICE, log 38). -/
def State.bufferedFetch (s : State) (a : Long) (cacheable : Bool) : Fetched × State :=
  let t := State.awaitLongword a s.cache.fb.pending.length s
  if t.cache.fb.hit a then t.answerBuffer a
  else if t.cache.arrayHit a && (cacheable || Config.noncacheableHitsArray) then t.answerArray a
  else t.miss a cacheable

/-- A noncacheable fetch with CEIB = 0 (R98): a longword from memory, unless the open constant lets the array answer. -/
def State.noncacheableFetch (s : State) (a : Long) : Fetched × State :=
  if s.cache.arrayHit a && Config.noncacheableHitsArray then s.answerArray a else s.extLongword a

/-- The fetch past the hold and the SRAM module (R85, R86). -/
def State.cacheFetch (s : State) (r : Ref) : Fetched × State :=
  let cacheable := (s.cache.effAttr r).cacheable
  if s.cache.cenb then
    if cacheable || s.cache.ceib then s.bufferedFetch r.addr cacheable else s.noncacheableFetch r.addr
  else s.uncachedFetch r

/-- What a fetch returns while no invalidation has completed since reset: any longword (R53, R147). A bus error stays. -/
def coldAnswer : Fetched × State → Fetched × State
  | (.busError, t) => (.busError, t)
  | (_, t) => (.longword (Config.anyLongword t.draws), { t with draws := t.draws + 1 })

/-- Fetch(ref) (R105), for an address with bit 0 clear: the hold of R112, the SRAM module (R47), then the cache. -/
def State.fetch (s : State) (r : Ref) : Fetched × State :=
  let t := s.finishInvalidate
  if t.plat.sramMaps r then (.longword (Memory.readLong t.plat.sram (longBase r.addr)), t)
  else if t.cache.cenb && t.cache.cold then coldAnswer (t.cacheFetch r)
  else t.cacheFetch r

end Sys2Proof.Machine
end

