-- ==== Sys2Proof/Machine/Operand.lean ====
section
/-! DEFINITION. Operand references of the core and the Debug module (R42, R70 to R76, R130, R131, R135). They are never looked
up in the cache and change no cache state (R42, decision D26). -/

namespace Sys2Proof.Machine

/-- An operand read: the SRAM module's data, or what the external bus delivers (a device's answer: log 31). Its attributes
have no effect (R75 to R77). A bus error is not in the source; it is only replied (log 18). -/
def State.operandRead (s : State) (r : Ref) : Reply × State :=
  if s.plat.sramMaps r then (.operand (Memory.readSized s.plat.sram r.addr r.size), s)
  else
    let plat := s.plat.access (.operandRead r.addr r.size)
    if s.plat.busErrorAt r.addr then (.busError, { s with plat := plat })
    else (.operand (plat.externalRead r.addr r.size), { s with plat := plat.touch r.addr })

/-- An operand write (R135): the SRAM module first (R73), then the attributes (R72), then write protection (R76, R130), then
buffered or unbuffered handling (R75). The model's choices: a write mapped to the SRAM module always succeeds, whether that
module protects addresses of its own not being in the source (R73; log 35); the write buffer always has room (log 36); an
unbuffered write waits for no buffered write but those to its own bytes (R48 (a), log 37). -/
def State.operandWrite (s : State) (r : Ref) (v : Long) : Reply × State :=
  if s.plat.sramMaps r then
    (.done, { s with plat := { s.plat with sram := Memory.writeSized s.plat.sram r.addr r.size v } })
  else
    let at' := s.cache.effAttr r
    let w : BusWrite := { addr := r.addr, size := r.size, value := v, src := r.src }
    if at'.wp then (.accessError, { s with plat := s.plat.addError { src := r.src, cause := .writeProtect } })
    else if at'.bufwrite then (.done, { s with plat := { s.plat with wbuf := s.plat.wbuf ++ [w] } })
    else
      (if s.plat.busErrorAt r.addr then .accessError else .done,
        { s with plat := (s.plat.performOverlapping r.addr r.size).performWrite w })

/-- A waiting access error is reported: the core takes the exception (R131). Nothing where there is none. -/
def State.deliverError (s : State) (k : Nat) : State :=
  match s.plat.errors[k]? with
  | none => s
  | some _ =>
    { s with plat := { s.plat with errors := s.plat.errors.eraseIdx k } }.takeException .accessError

end Sys2Proof.Machine
end

