-- ==== Sys2Proof/Machine/Agents.lean ====
section
/-! DEFINITION. What each agent's move does (decision D3): the core's instruction step over its instruction stream, and the
requests and events of the agenda. -/

namespace Sys2Proof.Machine

/-- Why the machine refuses words that are none of the four rows. -/
def refusalOf : DecodeError → Refusal
  | .tooShort => .tooShort
  | .unassignedRc rc => .unassignedRc rc
  | .cpushlCacheField cc => .cpushlCacheField cc
  | .outsideUnit w => .outsideUnit w

/-- The address of the first instruction word the core does not hold yet; it wraps past the top of memory (log 34). -/
def Core.streamEnd (c : Core) : Long := c.pc + BitVec.ofNat 32 (2 * c.prefetch.length)

/-- The reference with which the core fetches at an address: in its own mode; word sized at an odd word address, which its
stream reaches only by a change of flow, else longword sized (R13, R102, U8; log 23). -/
def Core.fetchRef (c : Core) (a : Long) : Ref :=
  { addr := a, kind := .fetch, super := c.supervisor, src := .core, size := if a.getLsbD 1 then .word else .longword }

/-- The instruction words an answered fetch at `a` gives the core: of a longword, both halves, or the half at `a` on
(R102, D1). -/
def Fetched.halves (a : Long) : Fetched → List Half
  | .longword v => if a.getLsbD 1 then [v.extractLsb' 0 16] else [v.extractLsb' 16 16, v.extractLsb' 0 16]
  | .word w => [w]
  | .busError => []

/-- Words fetched at the end of the core's instruction stream join it. -/
def State.appendWords (s : State) (ws : List Half) : State :=
  { s with core := { s.core with prefetch := s.core.prefetch ++ ws } }

/-- The core fetches the next words of its instruction stream. A bus error is a fault of the fetch (R133); an odd address is
refused (R44, D3). -/
def State.fetchAhead (s : State) : Host.Outcome State Fault Refusal :=
  let a := s.core.streamEnd
  if a.getLsbD 0 then .refused .oddFetchAddress
  else
    match s.fetch (s.core.fetchRef a) with
    | (.busError, _) => .fault .fetchBusError
    | (f, t) => .next (t.appendWords (f.halves a))

/-- The core fetches until it holds `n` words, in at most `fuel` fetches; each fetch brings one word or two. -/
def State.ensureWords (n : Nat) : Nat → State → Host.Outcome State Fault Refusal
  | 0, s => .next s
  | fuel + 1, s =>
    if n ≤ s.core.prefetch.length then .next s
    else
      match s.fetchAhead with
      | .next t => State.ensureWords n fuel t
      | .fault e => .fault e
      | .refused e => .refused e

/-- The core holds enough words to decode the instruction at its pc: the first word determines the length (R65). -/
def State.fetchInstruction (s : State) : Host.Outcome State Fault Refusal :=
  match State.ensureWords 1 1 s with
  | .next t => State.ensureWords (wordsNeeded t.core.prefetch) 2 t
  | .fault e => .fault e
  | .refused e => .refused e

/-- The words the core holds are decoded and executed; what is none of the four rows is refused by name (R66). -/
def State.runHeld (s : State) : Host.Outcome State Fault Refusal :=
  match decodeWords s.core.prefetch with
  | .instr i _ => exec i s
  | .rejected e => .refused (refusalOf e)

/-- The core executes the instruction at its pc. -/
def State.instructionStep (s : State) : Host.Outcome State Fault Refusal :=
  match s.fetchInstruction with
  | .next t => t.runHeld
  | .fault e => .fault e
  | .refused e => .refused e

/-- The core executes an instruction of its own, of `words` words (R67). The length comes from the agenda, any number, 0 and
more than 3 too, and the words passed are not examined, those of a MOVEC or a CPUSHL included. R65 says one to three words,
told by the first word, but gives no encoding of the core's other instructions to tell it from (DESIGN CHOICE, log 44). -/
def State.coreInstruction (s : State) (words : Nat) : Host.Outcome State Fault Refusal :=
  match State.ensureWords words words s with
  | .next t => .next (t.advance words)
  | .fault e => .fault e
  | .refused e => .refused e

/-- The core fetches ahead of need (D20). A fetch ahead that ends in a bus error brings nothing; the core meets the error
if it comes to need the words. -/
def State.prefetchMove (s : State) : Host.Outcome State Fault Refusal :=
  let a := s.core.streamEnd
  if a.getLsbD 0 then .refused .oddFetchAddress
  else
    let out := s.fetch (s.core.fetchRef a)
    .next (out.2.appendWords (out.1.halves a))

/-- The state with an answer to the request. -/
def State.answer (s : State) (reply : Reply) : State := { s with reply := some reply }

/-- A fetch request of the agenda (R103, R105). A fetch is of a word or a longword (R41): one of size byte is refused by name
(DESIGN CHOICE, log 33). -/
def State.fetchMove (s : State) (r : Ref) : Host.Outcome State Fault Refusal :=
  if r.addr.getLsbD 0 then .refused .oddFetchAddress
  else if r.size = .byte then .refused .byteFetch
  else
    let out := s.fetch r
    .next (out.2.answer (.fetched out.1))

/-- An operand read of the agenda. -/
def State.readMove (s : State) (r : Ref) : Host.Outcome State Fault Refusal :=
  if r.size.aligned r.addr then
    let out := s.operandRead r
    .next (out.2.answer out.1)
  else .refused .misalignedOperand

/-- An operand write of the agenda. -/
def State.writeMove (s : State) (r : Ref) (v : Long) : Host.Outcome State Fault Refusal :=
  if r.size.aligned r.addr then
    let out := s.operandWrite r v
    .next (out.2.answer out.1)
  else .refused .misalignedOperand

/-- An instruction of the core writes a general register. -/
def State.setRegMove (s : State) (r : Reg) (v : Long) : Host.Outcome State Fault Refusal :=
  if r.wf then .next { s with core := s.core.writeReg r v } else .refused .noSuchRegister

/-- What a register read returns: in Background Debug mode the stored value (R126); otherwise zeros, as a read of a
write-only register does (R125). -/
def State.bdmRead (s : State) (rc : CtrlReg) : Long := if s.plat.bdm then s.cache.bdmValue rc else 0#32

/-- One move. -/
def State.runMove (s : State) : Move → Host.Outcome State Fault Refusal
  | .instruction => s.instructionStep
  | .prefetch => s.prefetchMove
  | .coreInstruction words => s.coreInstruction words
  | .coreSetReg r v => s.setRegMove r v
  | .coreJump target => .next { s with core := { s.core with pc := target, prefetch := [] } }
  | .coreSetSr v => .next { s with core := { s.core with sr := v } }
  | .fetch r => s.fetchMove { r with kind := .fetch }
  | .operandRead r => s.readMove { r with kind := .read }
  | .operandWrite r v => s.writeMove { r with kind := .write } v
  | .fillStep => .next s.fillStep
  | .invStep => .next s.invStep
  | .drainWrite k => .next { s with plat := s.plat.drainWrite k }
  | .busMasterStore a v => .next { s with plat := s.plat.busMasterStore a v }
  | .deliverError k => .next (s.deliverError k)
  | .debugWrite rc v => .next ((s.writeCtrl rc v).answer .done)
  | .debugInvalidate a => .next ((s.pushLine a).answer .done)
  | .bdmRead rc => .next (s.answer (.register (s.bdmRead rc)))
  | .setBdm on => .next { s with plat := { s.plat with bdm := on } }
  | .hardwareReset => .next s.hardwareReset

/-- The next move: the agenda's first, which leaves the agenda, or the core's next instruction. The core goes on fetching and
executing in Background Debug mode as outside it: the source does not describe that mode (DESIGN CHOICE, log 41). -/
def State.nextMove (s : State) : Host.Outcome State Fault Refusal :=
  match s.agenda with
  | [] => s.instructionStep
  | m :: rest => State.runMove { s with agenda := rest } m

/-- The buffer and the entries at two addresses made to answer no fetch. -/
def Cache.forget (c : Cache) (a b : Long) : Cache :=
  { c with
    valid := put (put c.valid (idxOf a) false) (idxOf b) false
    fb := c.fb.empty
    invLeft := 0
    cold := false }

/-- Words placed where the core fetches its next instruction. From a state that holds words ahead, buffered writes, cached
copies, bus errors or devices, those are taken away, so that the fetch goes to the words placed, in external memory and in
the SRAM module alike (log 27). The unit is changed only where it could answer the fetch itself, that is with CENB set. -/
def State.placeWords (s : State) (ws : List Half) : State :=
  { s with
    cache := if s.cache.cenb then s.cache.forget s.core.pc (s.core.pc + 2#32) else s.cache
    core := { s.core with prefetch := [] }
    plat := { s.plat with
      mem := Memory.writeBytes s.plat.mem s.core.pc (bytesOfWords ws)
      sram := if s.plat.sramMap = [] then s.plat.sram else Memory.writeBytes s.plat.sram s.core.pc (bytesOfWords ws)
      wbuf := []
      busErrors := []
      devices := [] }
    agenda := [] }

end Sys2Proof.Machine
end

