-- ==== Sys2Proof/Machine/Step.lean ====
section
/-! DEFINITION. The step of the machine, and where a next instruction is placed. -/

namespace Sys2Proof.Machine

/-- One step is one move (log 8): the first of the agenda, or, with none left, the core's next instruction. -/
def step (s : State) : Host.Outcome State Fault Refusal := s.nextMove

/-- The instruction of an opcode-table number stored where `step` fetches its next instruction (log 4, log 22, log 27). -/
def State.withFetchWord (s : State) (nbits w : Nat) : State := s.placeWords (tableWords nbits w)

end Sys2Proof.Machine
end

