-- ==== Sys2Proof/Safety.lean ====
section
/-! DEFINITION. What counts as a sound state and a coherent one, in the words the statements use. -/

namespace Sys2Proof.Machine

/-- The registers hold implemented bits only (R22, R32). -/
structure Cache.RegsClean (c : Cache) : Prop where
  cacr : c.cacr &&& ~~~Config.cacrMask = 0#32
  acr0 : c.acr0 &&& ~~~Config.acrMask = 0#32
  acr1 : c.acr1 &&& ~~~Config.acrMask = 0#32

/-- The fill buffer's bookkeeping (R37 (b), R92): at most three longwords pending, each once, none of them valid yet. -/
structure FillBuffer.Sound (fb : FillBuffer) : Prop where
  atMostThree : fb.pending.length ≤ 3
  distinct : fb.pending.Nodup
  notYetValid : ∀ k ∈ fb.pending, fb.lwvalidAt k = false

/-- A sound state: clean registers, a sound buffer, the sequencer's count in range (R37 (c)), both memories in canonical
form. -/
structure State.Sound (s : State) : Prop where
  regs : s.cache.RegsClean
  buffer : s.cache.fb.Sound
  sequencer : s.cache.invLeft ≤ Config.invCycles
  mem : Memory.wf s.plat.mem = true
  sram : Memory.wf s.plat.sram = true

/-- The cache holds no stale longword (R51, R53): each valid line of the array and each valid longword of the buffer is what
memory holds now. -/
structure Cache.Coherent (c : Cache) (m : Memory) : Prop where
  array : ∀ (i : BitVec 5) (k : BitVec 2), c.validAt i = true →
    c.dataAt (dataIndex i k) = Memory.readLong m (lineLong (lineAddr (c.tagAt i) i) k)
  buffer : ∀ k : BitVec 2, c.fb.lwvalidAt k = true → c.fb.dataAt k = Memory.readLong m (lineLong c.fb.addr k)

/-- The bus has nothing of its own to do: no buffered write, no address that ends in a bus error, no device. -/
structure Platform.Quiet (p : Platform) : Prop where
  noWrites : p.wbuf = []
  noErrors : p.busErrors = []
  noDevices : p.devices = []

/-- Moves that can put a store on its way to external memory: an operand write that the SRAM module does not service and no
attribute protects (R73, R76), buffered or not, and a store of another bus master. (A buffered write performed later is a
store that was on its way already.) -/
def Move.mayStore (s : State) : Move → Bool
  | .operandWrite r _ =>
    !s.plat.sramMaps { r with kind := .write } && !(s.cache.effAttr { r with kind := .write }).wp
  | .busMasterStore _ _ => true
  | _ => false

/-- Moves that can change CACR, ACR0 or ACR1: an instruction of the core, a write by the Debug module, a hardware reset
(R11, R23, R127, R145). -/
def Move.mayWriteRegisters : Move → Bool
  | .instruction => true
  | .debugWrite _ _ => true
  | .hardwareReset => true
  | _ => false

/-- Moves that fetch, so that a line can enter the memory array (R95). -/
def Move.fetches : Move → Bool
  | .instruction => true
  | .prefetch => true
  | .coreInstruction _ => true
  | .fetch _ => true
  | _ => false

/-- The boot rule of R147 is kept: the cache is not enabled before an invalidate-all sequence has completed. -/
def State.booted (s : State) : Bool := !s.cache.cenb || !s.cache.cold

end Sys2Proof.Machine
end

