-- ==== Sys2Proof/Certificates/Slice0/Obligations.lean ====
section
/-! DEFINITION. The statements for the provers. Each docstring names the rule of spec/ it formalises, and the log entry where
a clause is the model's own choice. -/

open Sys2Proof Sys2Proof.Machine

/-! ### Encoding (30_encoding.md) -/

/-- Decoding an encoded well-formed instruction gives it back, whatever words follow, and also from bytes (R61, R62). -/
def Obligations.DecodeOfEncode : Prop :=
  ∀ (i : Instr) (rest : List Half), i.WellFormed →
    decodeWords (encode i ++ rest) = .instr i i.words ∧ decode (bytesOfWords (encode i)) = .instr i i.words

/-- Words that decode are the encoding of what they decode to, so no two word sequences share an instruction (R61, R62). -/
def Obligations.EncodeOfDecode : Prop :=
  ∀ (ws : List Half) (i : Instr) (n : Nat), decodeWords ws = .instr i n →
    i.WellFormed ∧ n = i.words ∧ ws.take n = encode i

/-- Words written out from the field tables of R61 and R62 decode to their instructions. -/
def Obligations.SampleWordsDecode : Prop :=
  decodeWords [0x4E7B#16, 0x0002#16] = .instr (.movecCacr (.d 0)) 2 ∧
  decodeWords [0x4E7B#16, 0x9004#16] = .instr (.movecAcr0 (.a 1)) 2 ∧
  decodeWords [0x4E7B#16, 0xF005#16] = .instr (.movecAcr1 (.a 7)) 2 ∧
  decodeWords [0x4E7B#16, 0x7005#16] = .instr (.movecAcr1 (.d 7)) 2 ∧
  decodeWords [0xF4E8#16] = .instr (.cpushl 0) 1 ∧
  decodeWords [0xF4EF#16] = .instr (.cpushl 7) 1

/-- A MOVEC to a control register number the section does not assign is refused by name when the core comes to execute it;
it is not a no-op (R64). That the core executes with no move waiting (log 8), in Background Debug mode too (log 41), and the
words it holds (log 23) are the model's choice. -/
def Obligations.UnassignedRcRefused : Prop :=
  ∀ (s : State) (ext : Half) (rest : List Half), s.agenda = [] → s.core.prefetch = 0x4E7B#16 :: ext :: rest →
    ext.extractLsb' 0 12 ≠ 0x002#12 → ext.extractLsb' 0 12 ≠ 0x004#12 → ext.extractLsb' 0 12 ≠ 0x005#12 →
    step s = .refused (.unassignedRc (ext.extractLsb' 0 12))

/-- A first word that is neither MOVEC's nor CPUSHL's is refused by name: with a cache field other than 11 as such, else as
outside the unit (R62, R66). That the core executes with no move waiting (log 8), in Background Debug mode too (log 41), and
the words it holds (log 23) are the model's choice. -/
def Obligations.OtherWordsRefused : Prop :=
  ∀ (s : State) (w : Half) (rest : List Half), s.agenda = [] → s.core.prefetch = w :: rest →
    w ≠ 0x4E7B#16 → w &&& 0xFFF8#16 ≠ 0xF4E8#16 →
    step s = .refused (if w &&& 0xFF38#16 = 0xF428#16 then .cpushlCacheField (w.extractLsb' 6 2) else .outsideUnit w)

/-! ### MOVEC (43_movec.md) -/

/-- `MOVEC Ry,CACR` (R120), for every register an encoding names: in supervisor mode CACR takes the implemented bits of Ry,
and bit 24 of Ry, which is not stored, starts the sequence of 32 entries; nothing else of the unit changes. In user mode
nothing of it changes and the privilege violation is raised. That bit 24 written while a sequence runs starts the count at 32
again, and that a write without it lets the sequence go on, is the model's choice, log 39: R118 gives the end state only
(N26). -/
def Obligations.MovecCacrWrites : Prop :=
  ∀ (ry : Reg) (s : State) (v : Long), s.core.readReg ry = some v →
    (s.supervisor = true → ∃ t : State, exec (.movecCacr ry) s = .next t ∧ t.cache = { s.cache with
        cacr := v &&& 0x98000723#32
        invLeft := if v.getLsbD 24 then 32 else s.cache.invLeft }) ∧
    (s.supervisor = false → ∃ t : State, exec (.movecCacr ry) s = .next t ∧ t.cache = s.cache ∧
      t.raised = s.raised ++ [.privilegeViolation])

/-- `MOVEC Ry,ACR0` (R121): in supervisor mode ACR0 takes the implemented bits of Ry and nothing else of the unit changes; in
user mode nothing of it changes and the privilege violation is raised. -/
def Obligations.MovecAcr0Writes : Prop :=
  ∀ (ry : Reg) (s : State) (v : Long), s.core.readReg ry = some v →
    (s.supervisor = true → ∃ t : State, exec (.movecAcr0 ry) s = .next t ∧
      t.cache = { s.cache with acr0 := v &&& 0xFFFFE064#32 }) ∧
    (s.supervisor = false → ∃ t : State, exec (.movecAcr0 ry) s = .next t ∧ t.cache = s.cache ∧
      t.raised = s.raised ++ [.privilegeViolation])

/-- `MOVEC Ry,ACR1` (R122): in supervisor mode ACR1 takes the implemented bits of Ry and nothing else of the unit changes; in
user mode nothing of it changes and the privilege violation is raised. -/
def Obligations.MovecAcr1Writes : Prop :=
  ∀ (ry : Reg) (s : State) (v : Long), s.core.readReg ry = some v →
    (s.supervisor = true → ∃ t : State, exec (.movecAcr1 ry) s = .next t ∧
      t.cache = { s.cache with acr1 := v &&& 0xFFFFE064#32 }) ∧
    (s.supervisor = false → ∃ t : State, exec (.movecAcr1 ry) s = .next t ∧ t.cache = s.cache ∧
      t.raised = s.raised ++ [.privilegeViolation])

/-- What a register holds after a write and what a read in Background Debug mode shows (R22, R32, R126): the implemented bits
of the value written, CINV and every reserved bit zero. The read changes nothing but the reply. -/
def Obligations.BdmReadsStoredValue : Prop :=
  ∀ (s : State) (rc : CtrlReg) (v : Long),
    (s.cache.writeCtrl rc v).ctrl rc = v &&& (if rc = .cacr then 0x98000723#32 else 0xFFFFE064#32) ∧
    (s.plat.bdm = true → State.runMove s (.bdmRead rc) = .next { s with
      reply := some (.register (s.cache.ctrl rc &&& (if rc = .cacr then 0x98000723#32 else 0xFFFFE064#32))) }) ∧
    (s.plat.bdm = true → State.runMove (s.writeCtrl rc v) (.bdmRead rc) = .next { s.writeCtrl rc v with
      reply := some (.register (v &&& (if rc = .cacr then 0x98000723#32 else 0xFFFFE064#32))) })

/-! ### CPUSHL (42_invalidation.md) -/

/-- `CPUSHL (Ax)` in supervisor mode (R14): with CPDI = 0 the valid bit of the entry that bits [8:4] of Ax name is cleared and
no other changes, whatever tag and address bits [31:9] are; with CPDI = 1 the instruction completes and nothing of the unit
changes. -/
def Obligations.CpushlInvalidatesEntry : Prop :=
  ∀ (n : Nat) (s : State) (v : Long), s.supervisor = true → s.core.readReg (.a n) = some v →
    (s.cache.cpdi = false → ∃ t : State, exec (.cpushl n) s = .next t ∧
      ∀ i : BitVec 5, t.cache.validAt i = if i = v.extractLsb' 4 5 then false else s.cache.validAt i) ∧
    (s.cache.cpdi = true → ∃ t : State, exec (.cpushl n) s = .next t ∧ t.cache = s.cache)

/-- The rest of the unit under `CPUSHL (Ax)` with CPDI = 0: a fill buffer whose index is the entry is emptied and keeps its
other fields, any other buffer is untouched (the spec's decision D6, log 11); tags, data and registers stay (R113). -/
def Obligations.CpushlEmptiesItsBuffer : Prop :=
  ∀ (n : Nat) (s : State) (v : Long), s.supervisor = true → s.core.readReg (.a n) = some v → s.cache.cpdi = false →
    ∃ t : State, exec (.cpushl n) s = .next t ∧
      t.cache = { s.cache with valid := t.cache.valid, fb := t.cache.fb } ∧
      (v.extractLsb' 4 5 = s.cache.fb.addr.extractLsb' 0 5 →
        (∀ k, t.cache.fb.lwvalidAt k = false) ∧
        t.cache.fb = { s.cache.fb with lwvalid := t.cache.fb.lwvalid, pending := [] }) ∧
      (v.extractLsb' 4 5 ≠ s.cache.fb.addr.extractLsb' 0 5 → t.cache.fb = s.cache.fb)

/-! ### Privilege and exceptions (60_exceptions.md) -/

/-- Each of the four instructions, executed in user mode, whatever its register and whatever CPDI is, takes the privilege
violation (R123, R132; for CPDI = 1 decision D6): nothing of the unit changes, and the core goes on in supervisor mode (R136).
The rest is the model's choice, log 20, and no rule of the spec: that the entry writes no memory and makes no access
(`t.plat = s.plat`; the source does not say what the chip saves), that the other status bits and the general registers stay,
and that no instruction words are held. -/
def Obligations.UserModePrivilegeViolation : Prop :=
  ∀ (i : Instr) (s : State), s.supervisor = false →
    ∃ t : State, exec i s = .next t ∧ t.cache = s.cache ∧ t.plat = s.plat ∧
      t.raised = s.raised ++ [.privilegeViolation] ∧ t.supervisor = true ∧ t.core.sr = s.core.sr ||| 0x2000#16 ∧
      t.core.d = s.core.d ∧ t.core.a = s.core.a ∧ t.core.prefetch = []

/-- Frame of the four instructions in supervisor mode (R113, R117, R120 to R122): no general register, no status bit, no byte
of memory, no external access, no tag, no data entry changes, no entry becomes valid, nothing is raised or replied. -/
def Obligations.InstructionsFrame : Prop :=
  ∀ (i : Instr) (s t : State), s.supervisor = true → exec i s = .next t →
    t.core.d = s.core.d ∧ t.core.a = s.core.a ∧ t.core.sr = s.core.sr ∧ t.plat = s.plat ∧
    (∀ x : Nat, Memory.readByte t.plat.mem x = Memory.readByte s.plat.mem x) ∧
    t.cache.tag = s.cache.tag ∧ t.cache.data = s.cache.data ∧
    (∀ i, t.cache.validAt i = true → s.cache.validAt i = true) ∧
    t.agenda = s.agenda ∧ t.reply = s.reply ∧ t.raised = s.raised ∧ t.draws = s.draws

/-- The four instructions, executed in supervisor mode, move the pc past their words, two for MOVEC and one for CPUSHL, and
those words leave the core's instruction stream. The lengths are R65's. That the pc moves by them is the model's own, log 1
and log 34: the spec has no pc arithmetic (N3). The stream is the model's own, log 23. -/
def Obligations.InstructionsPassTheirWords : Prop :=
  ∀ (i : Instr) (s t : State), s.supervisor = true → exec i s = .next t →
    t.core.pc = s.core.pc + (match i with
      | .movecCacr _ => 4#32
      | .movecAcr0 _ => 4#32
      | .movecAcr1 _ => 4#32
      | .cpushl _ => 2#32) ∧
    t.core.prefetch = s.core.prefetch.drop i.words

/-- An access error is reported to the core some time after the write (R131): it leaves the waiting errors, the exception is
raised, the core goes on in supervisor mode, and no state of the unit changes (R136). The model's choice and no rule of the
spec: that the entry writes no memory and makes no access (log 20; R136 leaves open what is saved and where), that errors wait
in a list, and that the core takes them whoever wrote (log 19). -/
def Obligations.AccessErrorReported : Prop :=
  ∀ (s : State) (k : Nat) (e : PendingError), s.plat.errors[k]? = some e →
    ∃ t : State, State.runMove s (.deliverError k) = .next t ∧ t.cache = s.cache ∧
      t.plat = { s.plat with errors := s.plat.errors.eraseIdx k } ∧
      t.raised = s.raised ++ [.accessError] ∧ t.supervisor = true

/-- After an exception the core fetches in supervisor mode: an ACR with SM = 00 does not apply to those fetches, and one with
SM = 01 or 1x applies where it is enabled and its address part matches (R136). -/
def Obligations.HandlerFetchesAreSupervisor : Prop :=
  ∀ (s : State) (e : Exc) (a acr : Long),
    (acrMode acr = 0b00#2 → acrMatch acr ((s.takeException e).core.fetchRef a) = false) ∧
    (acrMode acr ≠ 0b00#2 → acrEnabled acr = true →
      (a.extractLsb' 24 8 ^^^ acrBase acr) &&& ~~~ acrMaskField acr = 0#8 →
      acrMatch acr ((s.takeException e).core.fetchRef a) = true)

/-- The Debug module's register write has the effect of the MOVEC, its invalidation that of CPUSHL, whatever the core's mode
(R115, R127). -/
def Obligations.DebugModuleActsAsInstructions : Prop :=
  ∀ (s u : State) (r : Reg) (n : Nat) (v : Long), u.cache = s.cache → u.supervisor = true →
    (u.core.readReg r = some v →
      (∃ t w : State, State.runMove s (.debugWrite .cacr v) = .next t ∧ exec (.movecCacr r) u = .next w ∧
        t.cache = w.cache) ∧
      (∃ t w : State, State.runMove s (.debugWrite .acr0 v) = .next t ∧ exec (.movecAcr0 r) u = .next w ∧
        t.cache = w.cache) ∧
      (∃ t w : State, State.runMove s (.debugWrite .acr1 v) = .next t ∧ exec (.movecAcr1 r) u = .next w ∧
        t.cache = w.cache)) ∧
    (u.core.readReg (.a n) = some v →
      ∃ t w : State, State.runMove s (.debugInvalidate v) = .next t ∧ exec (.cpushl n) u = .next w ∧ t.cache = w.cache)

/-! ### Invalidate all (42_invalidation.md) -/

/-- The invalidate-all sequence (R111): each cycle clears a single entry and leaves one fewer to clear, and 32 cycles clear
every valid bit; tags, data and registers stay (decision D14); the fill-buffer part depends on the parameter
CINV_CLEARS_FILLBUF, stated for both values (R116 (a), decision D5, log 11). Its completion, and no cycle before the last,
ends the time in which a fetch returns any value (R53, R147; the bit `cold` that records it is the model's, log 7). -/
def Obligations.SequenceClearsEveryEntry : Prop :=
  ∀ (clears : Bool) (c : Cache),
    (∀ n : Nat, c.invLeft = n + 1 → (c.invStep clears).invLeft = n ∧
      (∃ i : BitVec 5, ∀ j, (c.invStep clears).validAt j = if j = i then false else c.validAt j) ∧
      (c.invStep clears).cold = (c.cold && decide (n ≠ 0))) ∧
    ∃ t : Cache, Cache.invSteps clears 32 c.startInvalidate = t ∧
      (∀ i, t.validAt i = false) ∧ t.invLeft = 0 ∧ t.cold = false ∧ t.tag = c.tag ∧ t.data = c.data ∧
      t.cacr = c.cacr ∧ t.acr0 = c.acr0 ∧ t.acr1 = c.acr1 ∧
      (clears = true → (∀ k, t.fb.lwvalidAt k = false) ∧ t.fb.pending = []) ∧
      (clears = false → t.fb = c.fb)

/-- A fetch is held until the sequence is complete: it is answered as from the state after it, and leaves none running
(R112). -/
def Obligations.FetchWaitsForSequence : Prop :=
  ∀ (s : State) (r : Ref), s.fetch r = s.finishInvalidate.fetch r ∧ (s.fetch r).2.cache.invLeft = 0

/-- One CACR write with CINV = 1, whatever else it stores (CENB = 1 included): the register holds its new value at once, and
no later fetch hits in the array (R112, R118) or in the buffer as they then are. The buffer half rests on the spec's own
choice CINV_CLEARS_FILLBUF = true (R116 (a), decision D5, log 11), without which it would be false; R118 speaks of the array
only. Nor are those fetches answered any value (R147; the bit `cold` is the model's record, log 7). -/
def Obligations.CinvWriteEmptiesCache : Prop :=
  ∀ (ry : Reg) (s : State) (v : Long), s.supervisor = true → s.core.readReg ry = some v → v.getLsbD 24 = true →
    ∃ t : State, exec (.movecCacr ry) s = .next t ∧ t.cache.cacr = v &&& 0x98000723#32 ∧
      t.finishInvalidate.cache.cacr = v &&& 0x98000723#32 ∧ t.finishInvalidate.cache.cold = false ∧
      ∀ a : Long, t.finishInvalidate.cache.arrayHit a = false ∧ t.finishInvalidate.cache.fb.hit a = false

/-- After a completed sequence nothing in the cache is stale, whatever memory holds: the array by R111; the fill buffer by the
spec's own choice CINV_CLEARS_FILLBUF = true (R116 (a), decision D5, log 11), without which the buffer half would be false. -/
def Obligations.CompletedSequenceIsCoherent : Prop :=
  ∀ (c : Cache) (m : Memory), (Cache.invSteps Config.cinvClearsFillbuf 32 c.startInvalidate).Coherent m

/-! ### Attributes (40_attributes.md) -/

/-- AcrMatch bit by bit (R71; the fields are R25 to R28): enabled; SM = 1x, or SM0 equal to the mode; and every address bit
31 to 24 whose mask bit is clear equals the base bit. That EN and SM take part in the match is the spec's own choice
(conflict C9, decision D23, log 26). -/
def Obligations.AcrMatchBitByBit : Prop :=
  ∀ (acr : Long) (r : Ref), acrMatch acr r = true ↔
    acr.getLsbD 15 = true ∧
    (acr.getLsbD 14 = true ∨ acr.getLsbD 13 = r.super) ∧
    ∀ n : Nat, 24 ≤ n → n ≤ 31 → acr.getLsbD (n - 8) = false → r.addr.getLsbD n = acr.getLsbD n

/-- EffAttr (R72): all three attributes from ACR0 if it matches, else from ACR1 if it matches, else the CACR defaults. -/
def Obligations.AttributePriority : Prop :=
  ∀ (c : Cache) (r : Ref),
    (acrMatch c.acr0 r = true → c.effAttr r =
      { cacheable := !c.acr0.getLsbD 6, bufwrite := c.acr0.getLsbD 5, wp := c.acr0.getLsbD 2 }) ∧
    (acrMatch c.acr0 r = false → acrMatch c.acr1 r = true → c.effAttr r =
      { cacheable := !c.acr1.getLsbD 6, bufwrite := c.acr1.getLsbD 5, wp := c.acr1.getLsbD 2 }) ∧
    (acrMatch c.acr0 r = false → acrMatch c.acr1 r = false → c.effAttr r =
      { cacheable := !c.cacr.getLsbD 9, bufwrite := c.cacr.getLsbD 8, wp := c.cacr.getLsbD 5 })

/-! ### Fetch: hits (41_fetch_linefill.md)

The hypotheses common to these statements: no invalidate-all sequence runs (a fetch is held while one does, R112), one has
completed since reset (otherwise R147), and the SRAM module does not service the address (otherwise R47). -/

/-- A fill-buffer hit (R82, R83, R84): the buffer holds the line a[31:4] and its longword a[3:2] is valid; the buffer answers,
also where the array would hit; no external access; of the state only the indicator changes, to set (decision D10, R93). -/
def Obligations.BufferHitAnswers : Prop :=
  ∀ (s : State) (r : Ref), s.cache.invLeft = 0 → s.cache.cold = false → s.plat.sramMaps r = false →
    s.cache.cenb = true → ((s.cache.effAttr r).cacheable = true ∨ s.cache.ceib = true) →
    s.cache.fb.addr = r.addr.extractLsb' 4 28 → s.cache.fb.lwvalidAt (r.addr.extractLsb' 2 2) = true →
    s.fetch r = (.longword (s.cache.fb.dataAt (r.addr.extractLsb' 2 2)),
      { s with cache := { s.cache with fb := { s.cache.fb with mru := true } } })

/-- An array hit (R81, R84, R94, R98): entry a[8:4] is valid with tag a[31:9]; the fetch is cacheable, or noncacheable with
the open parameter NONCACHEABLE_HITS_ARRAY true, under either value of CEIB; and the buffer, where it takes part (cacheable
or CEIB = 1), neither holds the longword nor awaits it. Data entry a[8:2] answers; no external access; of the state only the
indicator changes, cleared where the location is the buffered line's (decision D10). -/
def Obligations.ArrayHitAnswers : Prop :=
  ∀ (s : State) (r : Ref), s.cache.invLeft = 0 → s.cache.cold = false → s.plat.sramMaps r = false →
    s.cache.cenb = true → ((s.cache.effAttr r).cacheable = true ∨ Config.noncacheableHitsArray = true) →
    ((s.cache.effAttr r).cacheable = true ∨ s.cache.ceib = true →
      s.cache.fb.hit r.addr = false ∧ s.cache.fb.onItsWay r.addr = false) →
    s.cache.validAt (r.addr.extractLsb' 4 5) = true →
    s.cache.tagAt (r.addr.extractLsb' 4 5) = r.addr.extractLsb' 9 23 →
    s.fetch r = (.longword (s.cache.dataAt (r.addr.extractLsb' 2 7)),
      { s with cache := { s.cache with fb := { s.cache.fb with
        mru := if r.addr.extractLsb' 4 5 = s.cache.fb.addr.extractLsb' 0 5 then false else s.cache.fb.mru } } })

/-- A fetch of a longword of the buffered line that is on its way waits for it and is then a fill-buffer hit (R100, R92,
decision D13): it returns what memory holds, or where a device answers one of its free values (log 31), and sets the
indicator, as every fill-buffer hit does by the spec's decision D10 (R93, log 26); the only external accesses are longwords of
the burst in progress; the arrays stay. R92 reads memory when the longword's access is made; that this is memory as it is at
the request is because the wait runs to its end within the fetch and no store falls into it (DEDUCED, log 9). -/
def Obligations.AwaitedLongwordAnswers : Prop :=
  ∀ (s : State) (r : Ref), s.cache.invLeft = 0 → s.cache.cold = false → s.plat.sramMaps r = false →
    s.cache.cenb = true → ((s.cache.effAttr r).cacheable = true ∨ s.cache.ceib = true) → s.cache.fb.Sound →
    s.cache.fb.addr = r.addr.extractLsb' 4 28 → r.addr.extractLsb' 2 2 ∈ s.cache.fb.pending → s.plat.busErrors = [] →
    (s.plat.deviceAt r.addr = false →
      (s.fetch r).1 = .longword (Memory.readLong s.plat.mem (r.addr &&& 0xFFFFFFFC#32))) ∧
    (s.plat.deviceAt r.addr = true → ∃ n : Nat, s.plat.deviceAccesses ≤ n ∧
      (s.fetch r).1 = .longword (Config.deviceAnswer n (r.addr &&& 0xFFFFFFFC#32))) ∧
    (s.fetch r).2.cache.fb.hit r.addr = true ∧ (s.fetch r).2.cache.fb.mru = true ∧
    (s.fetch r).2.cache.fb.addr = s.cache.fb.addr ∧ (s.fetch r).2.cache.tag = s.cache.tag ∧
    (s.fetch r).2.cache.valid = s.cache.valid ∧ (s.fetch r).2.cache.data = s.cache.data ∧
    ∃ ks : List (BitVec 2), ks <+: s.cache.fb.pending ∧
      (s.fetch r).2.plat.log = s.plat.log ++ ks.map (fun k => .beat (lineLong s.cache.fb.addr k))

/-! ### Fetch: misses

What the external bus delivers is `Platform.externalRead`: what memory holds, or a device's free answer, whose side effect is
`Platform.touch` (log 31). FetchKeepsMemory says of both what they are; with no device at the address they are a read of memory
and no effect. -/

/-- FetchSize (R89, Tables 4-1 and 4-4). -/
def Obligations.FetchSizeTable : Prop :=
  ∀ clnf lw : BitVec 2, fetchSize clnf lw =
    if (clnf = 0b00#2 ∧ lw = 3#2) ∨ (clnf = 0b01#2 ∧ (lw = 2#2 ∨ lw = 3#2)) then .longword else .line

/-- The order of a line fetch (R90): the longwords accessed lie at byte offsets (4 lw + 4 j) mod 16 of the line, j = 0 to 3 in
order, the critical longword with the fetch itself and the others by the steps of the line-fill engine. -/
def Obligations.LineFetchOrder : Prop :=
  ∀ (s : State) (a : Long), s.cache.fb.addr = a.extractLsb' 4 28 → s.plat.wbuf = [] → s.plat.busErrors = [] →
    (State.fillSteps 3 (s.lineFetch a).2).plat.log = s.plat.log ++ .fetchLine (a &&& 0xFFFFFFF0#32) ::
      [0, 1, 2, 3].map fun j =>
        .beat ((a &&& 0xFFFFFFF0#32) + BitVec.ofNat 32 ((4 * (a.extractLsb' 2 2).toNat + 4 * j) % 16))

/-- A miss of size line, with no burst in progress (R87, R89, R91, R95, R97): the old buffer is judged for transfer, the
buffer is taken over, the critical longword is fetched, valid and returned, and the other three are pending in order. That
only the critical longword is valid, and that a noncacheable miss judges the old buffer too, is the spec's decision D12 (log
26). A noncacheable fetch misses also where the array holds its address, if NONCACHEABLE_HITS_ARRAY is false (R98). -/
def Obligations.LineMissLoadsBuffer : Prop :=
  ∀ (s : State) (r : Ref), s.cache.invLeft = 0 → s.cache.cold = false → s.plat.sramMaps r = false →
    s.cache.cenb = true → ((s.cache.effAttr r).cacheable = true ∨ s.cache.ceib = true) →
    s.cache.fb.hit r.addr = false → s.cache.fb.pending = [] →
    (s.cache.arrayHit r.addr = false ∨
      ((s.cache.effAttr r).cacheable = false ∧ Config.noncacheableHitsArray = false)) →
    s.plat.wbuf = [] → s.plat.busErrorAt r.addr = false →
    fetchSize (s.cache.cacr.extractLsb' 0 2) (lwOf r.addr) = .line →
    ∃ t : State, s.fetch r = (.longword (s.plat.externalRead (r.addr &&& 0xFFFFFFFC#32) .longword), t) ∧
      t.cache = { s.cache.transfer with fb := t.cache.fb } ∧
      t.cache.fb.addr = r.addr.extractLsb' 4 28 ∧ (∀ k, t.cache.fb.lwvalidAt k = decide (k = lwOf r.addr)) ∧
      t.cache.fb.dataAt (lwOf r.addr) = s.plat.externalRead (r.addr &&& 0xFFFFFFFC#32) .longword ∧
      t.cache.fb.pending = [lwOf r.addr + 1#2, lwOf r.addr + 2#2, lwOf r.addr + 3#2] ∧
      t.cache.fb.mru = true ∧ t.cache.fb.cacheable = (s.cache.effAttr r).cacheable ∧
      t.plat = Platform.touch { s.plat with log := s.plat.log ++
        [.fetchLine (r.addr &&& 0xFFFFFFF0#32), .beat (r.addr &&& 0xFFFFFFFC#32)] } r.addr

/-- A miss of size longword, with no burst in progress (R99, R97): the one longword is loaded into the buffer and returned;
nothing is pending (decision D12, log 26). A noncacheable fetch misses also where the array holds its address, if
NONCACHEABLE_HITS_ARRAY is false (R98). -/
def Obligations.LongwordMissLoadsOne : Prop :=
  ∀ (s : State) (r : Ref), s.cache.invLeft = 0 → s.cache.cold = false → s.plat.sramMaps r = false →
    s.cache.cenb = true → ((s.cache.effAttr r).cacheable = true ∨ s.cache.ceib = true) →
    s.cache.fb.hit r.addr = false → s.cache.fb.pending = [] →
    (s.cache.arrayHit r.addr = false ∨
      ((s.cache.effAttr r).cacheable = false ∧ Config.noncacheableHitsArray = false)) →
    s.plat.wbuf = [] → s.plat.busErrorAt r.addr = false →
    fetchSize (s.cache.cacr.extractLsb' 0 2) (lwOf r.addr) = .longword →
    ∃ t : State, s.fetch r = (.longword (s.plat.externalRead (r.addr &&& 0xFFFFFFFC#32) .longword), t) ∧
      t.cache = { s.cache.transfer with fb := t.cache.fb } ∧
      t.cache.fb.addr = r.addr.extractLsb' 4 28 ∧ (∀ k, t.cache.fb.lwvalidAt k = decide (k = lwOf r.addr)) ∧
      t.cache.fb.dataAt (lwOf r.addr) = s.plat.externalRead (r.addr &&& 0xFFFFFFFC#32) .longword ∧
      t.cache.fb.pending = [] ∧ t.cache.fb.mru = true ∧
      t.cache.fb.cacheable = (s.cache.effAttr r).cacheable ∧
      t.plat = Platform.touch
        { s.plat with log := s.plat.log ++ [.fetchLongword (r.addr &&& 0xFFFFFFFC#32)] } r.addr

/-- A miss while a burst is in progress first lets the burst end (R101, decision D11): it is the miss made after it. For a
noncacheable fetch also where the array holds its address, if NONCACHEABLE_HITS_ARRAY is false (R98). That this holds also
where a bus error ends the burst, of which the waiting miss is not told, is the model's choice (log 46). -/
def Obligations.MissWaitsForBurst : Prop :=
  ∀ (s : State) (r : Ref), s.cache.invLeft = 0 → s.plat.sramMaps r = false → s.cache.cenb = true →
    ((s.cache.effAttr r).cacheable = true ∨ s.cache.ceib = true) → s.cache.fb.hit r.addr = false →
    s.cache.fb.onItsWay r.addr = false →
    (s.cache.arrayHit r.addr = false ∨
      ((s.cache.effAttr r).cacheable = false ∧ Config.noncacheableHitsArray = false)) →
    s.finishFill.cache.fb.pending = [] ∧ s.fetch r = s.finishFill.fetch r

/-- FillStep (R92): the first pending longword arrives as the external bus then delivers it, becomes valid and is no longer
pending; the other longwords, the arrays and the registers stay; the one external access is that longword's. -/
def Obligations.FillStepBringsLongword : Prop :=
  ∀ (s : State) (k : BitVec 2) (rest : List (BitVec 2)), s.cache.fb.pending = k :: rest →
    s.plat.busErrorAt (lineLong s.cache.fb.addr k) = false →
    s.fillStep.cache = { s.cache with fb := s.fillStep.cache.fb } ∧ s.fillStep.cache.fb.pending = rest ∧
    (∀ j, s.fillStep.cache.fb.lwvalidAt j = (decide (j = k) || s.cache.fb.lwvalidAt j)) ∧
    (∀ j, s.fillStep.cache.fb.dataAt j =
      if j = k then s.plat.externalRead (lineLong s.cache.fb.addr k) .longword else s.cache.fb.dataAt j) ∧
    s.fillStep.plat = Platform.touch { s.plat with log := s.plat.log ++ [.beat (lineLong s.cache.fb.addr k)] }
      (lineLong s.cache.fb.addr k) ∧
    s.fillStep.cache.fb.addr = s.cache.fb.addr ∧ s.fillStep.cache.fb.mru = s.cache.fb.mru ∧
    s.fillStep.cache.fb.cacheable = s.cache.fb.cacheable

/-- A bus error on a fetch (R133, decision D21), in each of its forms. A longword of a burst whose bus access ends in an
error never becomes valid, and the rest of the burst is abandoned. A miss whose critical longword's access ends in an error is
answered by the error with no buffer longword valid. A fetch with the cache disabled, and a noncacheable one with CEIB = 0
that the array does not answer, are answered by the error with the unit unchanged, before the first invalidation too (log 7).
Where the core's own fetch of its next words, a first or a second one, is answered by the error, the step is the fault
fetchBusError (log 18; the words held are the model's, log 23). The model's choice and no rule of the spec: in the first
clause, that the longwords which arrived before the error stay valid (log 46); in the last, that the core executes with no
move waiting (log 8), in Background Debug mode too (log 41). Whom an error on a longword after the critical one is told to is
not stated here: R133 and D21 leave it open, and in the model it is nobody (log 46). -/
def Obligations.BusErrorValidatesNothing : Prop :=
  (∀ (s : State) (k : BitVec 2) (rest : List (BitVec 2)), s.cache.fb.pending = k :: rest →
    s.plat.busErrorAt (lineLong s.cache.fb.addr k) = true →
    s.fillStep.cache = { s.cache with fb := { s.cache.fb with pending := [] } }) ∧
  (∀ (s : State) (a : Long) (b : Bool), s.plat.busErrorAt a = true →
    (s.miss a b).1 = .busError ∧ (∀ k, (s.miss a b).2.cache.fb.lwvalidAt k = false) ∧
    (s.miss a b).2.cache.fb.pending = []) ∧
  (∀ (s : State) (r : Ref), s.cache.invLeft = 0 → s.plat.sramMaps r = false → s.plat.busErrorAt r.addr = true →
    (s.cache.cenb = false ∨
      (s.cache.cenb = true ∧ (s.cache.effAttr r).cacheable = false ∧ s.cache.ceib = false ∧
        (s.cache.arrayHit r.addr = false ∨ Config.noncacheableHitsArray = false))) →
    (s.fetch r).1 = .busError ∧ (s.fetch r).2.cache = s.cache) ∧
  (∀ s : State, s.core.streamEnd.getLsbD 0 = false → (s.fetch (s.core.fetchRef s.core.streamEnd)).1 = .busError →
    s.fetchAhead = .fault .fetchBusError ∧
    (s.agenda = [] → s.core.prefetch.length < wordsNeeded s.core.prefetch → step s = .fault .fetchBusError))

/-- The line transfer (R95, R96): exactly when the line is entire, most recently used, cacheable and, under freeze, its entry
invalid, the entry at fb.addr[4:0] takes tag fb.addr[27:5], becomes valid and takes the four longwords; no other entry
changes; otherwise nothing does. -/
def Obligations.TransferReplacesOneLine : Prop :=
  ∀ c : Cache,
    (((∀ k, c.fb.lwvalidAt k = true) ∧ c.fb.mru = true ∧ c.fb.cacheable = true ∧
        (c.cfrz = false ∨ c.validAt (c.fb.addr.extractLsb' 0 5) = false)) →
      (∀ i, c.transfer.validAt i = if i = c.fb.addr.extractLsb' 0 5 then true else c.validAt i) ∧
      (∀ i, c.transfer.tagAt i = if i = c.fb.addr.extractLsb' 0 5 then c.fb.addr.extractLsb' 5 23 else c.tagAt i) ∧
      (∀ i k, c.transfer.dataAt (dataIndex i k) =
        if i = c.fb.addr.extractLsb' 0 5 then c.fb.dataAt k else c.dataAt (dataIndex i k)) ∧
      c.transfer = { c with tag := c.transfer.tag, valid := c.transfer.valid, data := c.transfer.data }) ∧
    (¬((∀ k, c.fb.lwvalidAt k = true) ∧ c.fb.mru = true ∧ c.fb.cacheable = true ∧
        (c.cfrz = false ∨ c.validAt (c.fb.addr.extractLsb' 0 5) = false)) →
      c.transfer = c)

/-- With CFRZ = 1 no fetch overwrites a valid entry: its tag, its valid bit and its four longwords stay (R15, R96). -/
def Obligations.FreezeKeepsValidEntries : Prop :=
  ∀ (s : State) (r : Ref) (i : BitVec 5), s.cache.invLeft = 0 → s.cache.cfrz = true → s.cache.validAt i = true →
    (s.fetch r).2.cache.validAt i = true ∧ (s.fetch r).2.cache.tagAt i = s.cache.tagAt i ∧
    ∀ k, (s.fetch r).2.cache.dataAt (dataIndex i k) = s.cache.dataAt (dataIndex i k)

/-- Frame of a fetch (R106): it never writes CACR, ACR0, ACR1, the core or the SRAM module; with no sequence running it clears
no valid bit, and of the memory array it writes at most the line at the index of the buffered line. That no exception is
raised where the fetch, or a burst it waits for, ends in a bus error is the model's choice (log 18, log 46). -/
def Obligations.FetchFrame : Prop :=
  ∀ (s : State) (r : Ref),
    (s.fetch r).2.cache.cacr = s.cache.cacr ∧ (s.fetch r).2.cache.acr0 = s.cache.acr0 ∧
    (s.fetch r).2.cache.acr1 = s.cache.acr1 ∧ (s.fetch r).2.core = s.core ∧
    (s.fetch r).2.plat.sram = s.plat.sram ∧ (s.fetch r).2.agenda = s.agenda ∧ (s.fetch r).2.raised = s.raised ∧
    (s.cache.invLeft = 0 →
      (∀ i, s.cache.validAt i = true → (s.fetch r).2.cache.validAt i = true) ∧
      (∀ i, i ≠ s.cache.fb.addr.extractLsb' 0 5 →
        (s.fetch r).2.cache.validAt i = s.cache.validAt i ∧ (s.fetch r).2.cache.tagAt i = s.cache.tagAt i ∧
        ∀ k, (s.fetch r).2.cache.dataAt (dataIndex i k) = s.cache.dataAt (dataIndex i k)))

/-- A fetch itself stores nothing, but is not free of side effects where a device answers (R45, N18). With no buffered write
it leaves every byte of memory; with no device either, it changes of the bus side the log only; and with the cache disabled,
two fetches of one device longword are answered by two free values. That a device's side effect on memory comes as moves of
its own, never within the fetch, is the model's choice (log 31, log 32) and no rule of the spec. The last clause says what
`externalRead` and `touch`, in which the other statements are written, are. -/
def Obligations.FetchKeepsMemory : Prop :=
  (∀ (s : State) (r : Ref), s.plat.wbuf = [] →
    (s.fetch r).2.plat.wbuf = [] ∧
    (∀ x : Nat, Memory.readByte (s.fetch r).2.plat.mem x = Memory.readByte s.plat.mem x) ∧
    (s.plat.devices = [] → (s.fetch r).2.plat = { s.plat with log := (s.fetch r).2.plat.log })) ∧
  (∀ (s : State) (r : Ref), s.cache.invLeft = 0 → s.plat.sramMaps r = false → s.cache.cenb = false →
    s.plat.wbuf = [] → s.plat.busErrorAt r.addr = false → r.size = .longword → s.plat.deviceAt r.addr = true →
    (s.fetch r).1 = .longword (Config.deviceAnswer s.plat.deviceAccesses (r.addr &&& 0xFFFFFFFC#32)) ∧
    ((s.fetch r).2.fetch r).1 =
      .longword (Config.deviceAnswer (s.plat.deviceAccesses + 1) (r.addr &&& 0xFFFFFFFC#32))) ∧
  (∀ (p : Platform) (a : Long),
    (p.deviceAt a = false → p.touch a = p ∧
      p.externalRead a .longword = Memory.readLong p.mem a ∧
      p.externalRead a .word = (Memory.readHalf p.mem a).setWidth 32) ∧
    (p.deviceAt a = true → p.touch a = { p with deviceAccesses := p.deviceAccesses + 1 } ∧
      p.externalRead a .longword = Config.deviceAnswer p.deviceAccesses a ∧
      p.externalRead a .word = Config.deviceAnswer p.deviceAccesses a &&& 0xFFFF#32))

/-! ### Fetch: the other modes -/

/-- Cache disabled (R85, R102): every fetch goes to the external bus, word sized where the address has bit 1 set and
the requester asks for a word, else longword sized; no state of the unit changes. -/
def Obligations.DisabledCacheGoesToMemory : Prop :=
  ∀ (s : State) (r : Ref), s.cache.invLeft = 0 → s.plat.sramMaps r = false → s.cache.cenb = false →
    s.plat.wbuf = [] → s.plat.busErrorAt r.addr = false →
    s.fetch r =
      if r.addr.getLsbD 1 = true ∧ r.size = .word then
        (.word ((s.plat.externalRead r.addr .word).setWidth 16),
          { s with plat := Platform.touch { s.plat with log := s.plat.log ++ [.fetchWord r.addr] } r.addr })
      else
        (.longword (s.plat.externalRead (r.addr &&& 0xFFFFFFFC#32) .longword),
          { s with plat := Platform.touch { s.plat with
              log := s.plat.log ++ [.fetchLongword (r.addr &&& 0xFFFFFFFC#32)] } r.addr })

/-- Noncacheable with CEIB = 0 (R98): a longword from the external bus, no state of the unit changes; where the array holds
the address the open parameter NONCACHEABLE_HITS_ARRAY decides, stated for both values: with true the fetch is an array hit in
every respect, so no external access is made and of the unit only the indicator changes, cleared where the location is the
buffered line's (R94, decision D10). -/
def Obligations.NoncacheableWithoutBursting : Prop :=
  ∀ (s : State) (r : Ref), s.cache.invLeft = 0 → s.cache.cold = false → s.plat.sramMaps r = false →
    s.cache.cenb = true → (s.cache.effAttr r).cacheable = false → s.cache.ceib = false →
    s.plat.wbuf = [] → s.plat.busErrorAt r.addr = false →
    ((s.cache.arrayHit r.addr = false ∨ Config.noncacheableHitsArray = false) →
      s.fetch r = (.longword (s.plat.externalRead (r.addr &&& 0xFFFFFFFC#32) .longword),
        { s with plat := Platform.touch { s.plat with
            log := s.plat.log ++ [.fetchLongword (r.addr &&& 0xFFFFFFFC#32)] } r.addr })) ∧
    ((s.cache.arrayHit r.addr = true ∧ Config.noncacheableHitsArray = true) →
      s.fetch r = (.longword (s.cache.dataAt (r.addr.extractLsb' 2 7)),
        { s with cache := { s.cache with fb := { s.cache.fb with
          mru := if r.addr.extractLsb' 4 5 = s.cache.fb.addr.extractLsb' 0 5 then false else s.cache.fb.mru } } }))

/-- SRAM priority (R47, R73): a reference mapped to the SRAM module is answered by it, with no external access and no change
of the unit's state (decision D22): a fetch and an operand read return its contents; an operand write, whatever WP and DWP
are, changes its contents at the bytes of the operand and nothing else (V16). The model's choices and no rule of the spec:
that the SRAM module itself protects no address (log 35); that a fetch is answered with the module's aligned longword, that
its contents are a plain memory, and that a write reads back (log 17; D3 and U25 leave the value to an oracle). -/
def Obligations.SramAnswersFirst : Prop :=
  ∀ (s : State) (r : Ref) (v : Long), s.plat.sramMaps r = true →
    (s.cache.invLeft = 0 → s.fetch r = (.longword (Memory.readLong s.plat.sram (r.addr &&& 0xFFFFFFFC#32)), s)) ∧
    s.operandRead r = (.operand (Memory.readSized s.plat.sram r.addr r.size), s) ∧
    (s.operandWrite r v).1 = .done ∧
    (s.operandWrite r v).2 = { s with plat := { s.plat with sram := (s.operandWrite r v).2.plat.sram } } ∧
    (Memory.wf s.plat.sram = true →
      Memory.readSized (s.operandWrite r v).2.plat.sram r.addr r.size =
        (match r.size with
         | .byte => v &&& 0xFF#32
         | .word => v &&& 0xFFFF#32
         | .longword => v) ∧
      ∀ b : Long, (∀ j < r.size.bytes, b ≠ r.addr + BitVec.ofNat 32 j) →
        Memory.readByte (s.operandWrite r v).2.plat.sram b.toNat = Memory.readByte s.plat.sram b.toNat)

/-- Before the first completed invalidation after a reset a fetch made with CENB = 1 returns a free value (R53, R147), on a
bus without errors; in general it returns that or ends in a bus error (that a bus error stays one is the model's choice, log
7). -/
def Obligations.ColdFetchReturnsFreeValue : Prop :=
  ∀ (s : State) (r : Ref), s.cache.invLeft = 0 → s.plat.sramMaps r = false → s.cache.cenb = true →
    s.cache.cold = true →
    (s.plat.busErrors = [] →
      (s.fetch r).1 = .longword (Config.anyLongword s.draws) ∧ (s.fetch r).2.draws = s.draws + 1) ∧
    ((s.fetch r).1 = .busError ∨
      ((s.fetch r).1 = .longword (Config.anyLongword s.draws) ∧ (s.fetch r).2.draws = s.draws + 1))

/-! ### Operand references (20_memory.md, 40_attributes.md) -/

/-- An operand reference changes no state of the unit and does not depend on what the cache holds (R42; that not even the
indicator changes is decision D26): an operand read has the same answer and the same effect on the bus side whatever the unit
is, so whatever wp is (R76), and an operand write whatever the unit holds beside the three registers, which give its
attributes (R72). Outside the SRAM module a read makes the one external access and is answered with what the external bus
delivers (D26), or with its bus error (log 18). That it is answered so whatever waits in the write buffer, neither taking data
from a buffered write nor waiting for one, so that after a buffered write to the same bytes it returns the older data, is the
model's choice and no part of D26 (log 13). -/
def Obligations.OperandsLeaveCacheAlone : Prop :=
  ∀ (s : State) (r : Ref) (v : Long),
    (s.operandRead r).2.cache = s.cache ∧ (s.operandWrite r v).2.cache = s.cache ∧
    (∀ c : Cache, (State.operandRead { s with cache := c } r).1 = (s.operandRead r).1 ∧
      (State.operandRead { s with cache := c } r).2.plat = (s.operandRead r).2.plat) ∧
    (∀ c : Cache, c.cacr = s.cache.cacr → c.acr0 = s.cache.acr0 → c.acr1 = s.cache.acr1 →
      (State.operandWrite { s with cache := c } r v).1 = (s.operandWrite r v).1 ∧
      (State.operandWrite { s with cache := c } r v).2.plat = (s.operandWrite r v).2.plat) ∧
    (s.plat.sramMaps r = false →
      (s.plat.busErrorAt r.addr = false → s.operandRead r = (.operand (s.plat.externalRead r.addr r.size),
        { s with plat := Platform.touch { s.plat with
            log := s.plat.log ++ [.operandRead r.addr r.size] } r.addr })) ∧
      (s.plat.busErrorAt r.addr = true → s.operandRead r = (.busError,
        { s with plat := { s.plat with log := s.plat.log ++ [.operandRead r.addr r.size] } })))

/-- A write-protected write, outside the SRAM module (R76, R130): it ends in an access error, to be reported later (R131), and
reaches neither memory nor the write buffer nor the bus (decision D18; the list of waiting errors is the model's, log 19). -/
def Obligations.ProtectedWriteEndsInError : Prop :=
  ∀ (s : State) (r : Ref) (v : Long), s.plat.sramMaps r = false → (s.cache.effAttr r).wp = true →
    s.operandWrite r v = (.accessError,
      { s with plat := { s.plat with errors := s.plat.errors ++ [{ src := r.src, cause := .writeProtect }] } })

/-- An unbuffered permitted write has ended on the external bus when it terminates (R75, R48 (a)). Where a device answers,
memory takes nothing of it and the device has answered one more access (log 31). Where the bus reports an error, it ends in
an access error and memory takes nothing of it. Else it is in memory: reading the operand back gives its value, every other
byte is as the writes performed before it left it, and nothing else changes but the log. Performed before it are the buffered
writes to its own bytes, for none of those may land after it (R48 (a)); the write buffer keeps exactly the others, and bytes
of no overlapping buffered write are as before. The model's choice and no rule of the spec: that it waits for no other
buffered write (log 37), that a write the bus reports an error for stores nothing (log 18), and that its error waits in a
list, the Debug module's too (log 19; R131 says only that such errors are reported late). -/
def Obligations.UnbufferedWriteReachesMemory : Prop :=
  (∀ (s : State) (r : Ref) (v : Long) (q : Platform), s.plat.sramMaps r = false →
    (s.cache.effAttr r).wp = false → (s.cache.effAttr r).bufwrite = false →
    q = s.plat.performOverlapping r.addr r.size →
    (s.plat.busErrorAt r.addr = true → s.operandWrite r v = (.accessError,
      { s with plat := { q with
        log := q.log ++ [.operandWrite r.addr r.size]
        errors := q.errors ++ [{ src := r.src, cause := .busError }] } })) ∧
    (s.plat.busErrorAt r.addr = false → s.plat.deviceAt r.addr = true → s.operandWrite r v = (.done,
      { s with plat := { q with
        log := q.log ++ [.operandWrite r.addr r.size]
        deviceAccesses := q.deviceAccesses + 1 } })) ∧
    (s.plat.busErrorAt r.addr = false → s.plat.deviceAt r.addr = false →
      (s.operandWrite r v).1 = .done ∧
      (s.operandWrite r v).2 = { s with plat := { q with
        log := q.log ++ [.operandWrite r.addr r.size]
        mem := (s.operandWrite r v).2.plat.mem } } ∧
      (Memory.wf s.plat.mem = true →
        Memory.readSized (s.operandWrite r v).2.plat.mem r.addr r.size =
          (match r.size with
           | .byte => v &&& 0xFF#32
           | .word => v &&& 0xFFFF#32
           | .longword => v) ∧
        ∀ b : Long, (∀ j < r.size.bytes, b ≠ r.addr + BitVec.ofNat 32 j) →
          Memory.readByte (s.operandWrite r v).2.plat.mem b.toNat = Memory.readByte q.mem b.toNat))) ∧
  (∀ (p : Platform) (a : Long) (size : RefSize),
    (p.performOverlapping a size).wbuf = p.wbuf.filter (fun w => !w.overlaps a size) ∧
    ((∀ w ∈ p.wbuf, w.overlaps a size = false) → p.performOverlapping a size = p) ∧
    (Memory.wf p.mem = true → ∀ b : Long,
      (∀ w ∈ p.wbuf, w.overlaps a size = true → ∀ j < w.size.bytes, b ≠ w.addr + BitVec.ofNat 32 j) →
      Memory.readByte (p.performOverlapping a size).mem b.toNat = Memory.readByte p.mem b.toNat) ∧
    ∀ w : BusWrite, w.overlaps a size = true ↔
      ∃ j < w.size.bytes, ∃ k < size.bytes, w.addr + BitVec.ofNat 32 j = a + BitVec.ofNat 32 k)

/-- A buffered permitted write terminates at once and waits in the bus controller; memory is not yet changed (R75; that there
is always room for it is the model's choice, log 36). When the bus controller performs it, it leaves the write buffer and is
in memory; or it changes no memory, where the bus reports an error or where a device answers (log 31). The model's choice and
no rule of the spec: that a write the bus reports an error for stores nothing (log 18), and that its error waits in a list,
the Debug module's too (log 19; R131 says only that such errors are reported late). -/
def Obligations.BufferedWriteWaits : Prop :=
  (∀ (s : State) (r : Ref) (v : Long), s.plat.sramMaps r = false →
    (s.cache.effAttr r).wp = false → (s.cache.effAttr r).bufwrite = true →
    s.operandWrite r v = (.done,
      { s with plat := { s.plat with
        wbuf := s.plat.wbuf ++ [{ addr := r.addr, size := r.size, value := v, src := r.src }] } })) ∧
  (∀ (s : State) (k : Nat) (w : BusWrite), s.plat.wbuf[k]? = some w →
    (s.plat.busErrorAt w.addr = true → State.runMove s (.drainWrite k) = .next { s with plat := { s.plat with
      wbuf := s.plat.wbuf.eraseIdx k
      log := s.plat.log ++ [.operandWrite w.addr w.size]
      errors := s.plat.errors ++ [{ src := w.src, cause := .busError }] } }) ∧
    (s.plat.busErrorAt w.addr = false → s.plat.deviceAt w.addr = true →
      State.runMove s (.drainWrite k) = .next { s with plat := { s.plat with
        wbuf := s.plat.wbuf.eraseIdx k
        log := s.plat.log ++ [.operandWrite w.addr w.size]
        deviceAccesses := s.plat.deviceAccesses + 1 } }) ∧
    (s.plat.busErrorAt w.addr = false → s.plat.deviceAt w.addr = false →
      State.runMove s (.drainWrite k) = .next { s with plat := { s.plat with
        wbuf := s.plat.wbuf.eraseIdx k
        log := s.plat.log ++ [.operandWrite w.addr w.size]
        mem := Memory.writeSized s.plat.mem w.addr w.size w.value } }))

/-- Writes against a later external fetch, of a longword, of a word and of a line. First (R48 (b)), whatever waits in the
write buffer: the fetch is answered after all of it has been performed, oldest first, or with it still waiting, as the open
parameter BUFWRITE_BEFORE_LATER_FETCH says, stated for both values (decision D8). That it is all of them or none, and oldest
first, is the model's choice and no part of D8 (log 13; R75 and U26 leave the order among them free). Second, the same with
one buffered write, its store written out: `store` puts the value in memory, or a device takes it. Third (R48 (a)): after an
unbuffered write has terminated normally, whatever was buffered before it, every later external fetch finds the data it
wrote, at either value of the parameter and also after the bus controller performs a buffered write. -/
def Obligations.BufferedWriteAgainstFetch : Prop :=
  (∀ (s : State) (a : Long) (q : Platform), s.plat.busErrorAt a = false →
    ((Config.bufwriteBeforeLaterFetch = true ∧ q = Platform.performWrites s.plat.wbuf { s.plat with wbuf := [] }) ∨
      (Config.bufwriteBeforeLaterFetch = false ∧ q = s.plat)) →
    s.extLongword a = (.longword (q.externalRead (a &&& 0xFFFFFFFC#32) .longword),
      { s with plat := Platform.touch { q with log := q.log ++ [.fetchLongword (a &&& 0xFFFFFFFC#32)] } a }) ∧
    s.extWord a = (.word ((q.externalRead a .word).setWidth 16),
      { s with plat := Platform.touch { q with log := q.log ++ [.fetchWord a] } a }) ∧
    (s.lineFetch a).1 = .longword (q.externalRead (a &&& 0xFFFFFFFC#32) .longword) ∧
    (s.lineFetch a).2.plat = Platform.touch { q with
      log := q.log ++ [.fetchLine (a &&& 0xFFFFFFF0#32), .beat (a &&& 0xFFFFFFFC#32)] } a) ∧
  (∀ (s : State) (a : Long) (w : BusWrite), s.plat.wbuf = [w] → s.plat.busErrorAt w.addr = false →
    s.plat.busErrorAt a = false →
    (Config.bufwriteBeforeLaterFetch = true →
      (s.extLongword a).1 =
        .longword ((s.plat.store w.addr w.size w.value).externalRead (a &&& 0xFFFFFFFC#32) .longword) ∧
      (s.lineFetch a).1 =
        .longword ((s.plat.store w.addr w.size w.value).externalRead (a &&& 0xFFFFFFFC#32) .longword) ∧
      (s.extWord a).1 = .word (((s.plat.store w.addr w.size w.value).externalRead a .word).setWidth 16)) ∧
    (Config.bufwriteBeforeLaterFetch = false →
      (s.extLongword a).1 = .longword (s.plat.externalRead (a &&& 0xFFFFFFFC#32) .longword) ∧
      (s.lineFetch a).1 = .longword (s.plat.externalRead (a &&& 0xFFFFFFFC#32) .longword) ∧
      (s.extWord a).1 = .word ((s.plat.externalRead a .word).setWidth 16))) ∧
  (∀ (s t : State) (r : Ref) (v : Long), Memory.wf s.plat.mem = true → s.plat.sramMaps r = false →
    (s.cache.effAttr r).wp = false → (s.cache.effAttr r).bufwrite = false →
    s.plat.busErrorAt r.addr = false → s.plat.deviceAt r.addr = false → t = (s.operandWrite r v).2 →
    Memory.readSized t.plat.settleWrites.mem r.addr r.size = r.size.truncate v ∧
    (∀ k : Nat, Memory.readSized (t.plat.drainWrite k).mem r.addr r.size = r.size.truncate v) ∧
    (r.size.aligned r.addr = true → r.size = .longword →
      (t.extLongword r.addr).1 = .longword v ∧ (t.lineFetch r.addr).1 = .longword v) ∧
    (r.size.aligned r.addr = true → r.size = .word → (t.extWord r.addr).1 = .word (v.extractLsb' 0 16)))

/-- A store is not seen by a later fetch that hits (R51): whatever operand write of the core or the Debug module comes
before, or whatever store of another bus master, the fetch returns the copy held. The second part says what another master's
store does (that it comes as a move of one byte is the model's, log 32): memory has the byte, and nothing else changes. -/
def Obligations.StoreNotSeenByHit : Prop :=
  (∀ (s : State) (r w : Ref) (v : Long) (x : Long) (b : Byte), s.cache.invLeft = 0 → s.cache.cold = false →
    s.plat.sramMaps r = false → s.cache.cenb = true →
    ((((s.cache.effAttr r).cacheable = true ∨ s.cache.ceib = true) ∧ s.cache.fb.hit r.addr = true) ∨
      (((s.cache.effAttr r).cacheable = true ∨ Config.noncacheableHitsArray = true) ∧
        s.cache.arrayHit r.addr = true ∧ s.cache.fb.onItsWay r.addr = false)) →
    ((s.operandWrite w v).2.fetch r).1 = (s.fetch r).1 ∧
    ∃ t : State, State.runMove s (.busMasterStore x b) = .next t ∧ (t.fetch r).1 = (s.fetch r).1) ∧
  (∀ (s : State) (x : Long) (b : Byte), Memory.wf s.plat.mem = true → s.plat.busErrorAt x = false →
    s.plat.deviceAt x = false →
    ∃ t : State, State.runMove s (.busMasterStore x b) = .next t ∧
      t = { s with plat := { s.plat with mem := t.plat.mem } } ∧
      ∀ y : Nat, Memory.readByte t.plat.mem y = if y = x.toNat then b else Memory.readByte s.plat.mem y)

/-! ### Coherence (20_memory.md R51, R53; 70_reset_and_hazards.md R148, R154) -/

/-- In a coherent state, with the boot rule kept and the bus quiet (no buffered write, bus error or device), every fetch
returns what memory holds, whatever CLNF, CFRZ, CEIB and the attributes are: the longword at its address (R53, R154); or,
with the cache disabled, for a word asked for at an odd word address, that word (R85, R102). Which half of the longword that
word is rests on the byte order, decision D1 (PRESUMED, log 15). -/
def Obligations.CoherentFetchReturnsMemory : Prop :=
  ∀ (s : State) (r : Ref), s.cache.Coherent s.plat.mem → s.plat.Quiet → s.booted = true → s.plat.sramMaps r = false →
    (s.fetch r).1 =
      if s.cache.cenb = false ∧ r.addr.getLsbD 1 = true ∧ r.size = .word then
        .word (Memory.readHalf s.plat.mem r.addr)
      else .longword (Memory.readLong s.plat.mem (r.addr &&& 0xFFFFFFFC#32))

/-- Every step that puts no store on its way to external memory, by a permitted operand write outside the SRAM module or by
another bus master, keeps a coherent state coherent: fetches, fills, transfers, invalidations, register writes, operand reads,
protected writes and writes into the SRAM module bring nothing stale into the cache (R51, R53, R117). That a
write-protected write does not is the spec's decision D18 (R76, log 26: it reaches no memory). That an
exception does not is the model's choice log 20 (its entry writes no memory). That a hardware reset does not rests on two
things: of the unit, the spec's choices D15 (the data array is kept, log 5) and D4 (the buffer is emptied, log 6); of its
neighbours, the model's choice that memory, the write buffer and the lists of bus errors and devices survive it (log 42; R145
gives the unit only). -/
def Obligations.StepKeepsCoherence : Prop :=
  ∀ s t : State, s.cache.Coherent s.plat.mem → s.plat.Quiet →
    (∀ m rest, s.agenda = m :: rest → m.mayStore s = false) → step s = .next t →
    t.cache.Coherent t.plat.mem ∧ t.plat.Quiet

/-- The software procedure of R148: after an unbuffered write into a coherent state, and after a store of another bus master
into one (a move of one byte, log 32), invalidating the entry of the address written, with CPDI = 0, gives a coherent state
again. That the buffer holds nothing stale either rests on the spec's own
choice CPUSHL_CLEARS_FILLBUF = true (R116 (b), decision D6, log 11), without which the result would be false. -/
def Obligations.InvalidatingRestoresCoherence : Prop :=
  ∀ s : State, s.cache.Coherent s.plat.mem → s.plat.Quiet → Memory.wf s.plat.mem = true → s.cache.cpdi = false →
    (∀ (r : Ref) (v : Long), s.plat.sramMaps r = false → (s.cache.effAttr r).wp = false →
      (s.cache.effAttr r).bufwrite = false → r.size.aligned r.addr = true →
      ((s.operandWrite r v).2.pushLine r.addr).cache.Coherent ((s.operandWrite r v).2.pushLine r.addr).plat.mem) ∧
    ∀ (x : Long) (b : Byte), ∃ t : State, State.runMove s (.busMasterStore x b) = .next t ∧
      (t.pushLine x).cache.Coherent (t.pushLine x).plat.mem

/-! ### Reset (10_state.md R38, R39; 70_reset_and_hazards.md R145, R146) -/

/-- A hardware reset clears CACR, ACR0 and ACR1, at power-on and of a running system (R38). -/
def Obligations.ResetClearsRegisters : Prop :=
  (State.reset.cache.cacr = 0#32 ∧ State.reset.cache.acr0 = 0#32 ∧ State.reset.cache.acr1 = 0#32) ∧
  ∀ s : State, s.hardwareReset.cache.cacr = 0#32 ∧ s.hardwareReset.cache.acr0 = 0#32 ∧
    s.hardwareReset.cache.acr1 = 0#32

/-- A hardware reset of a running system leaves the tag array, its valid bits and the data array; no buffer longword is valid
or pending and no sequence runs afterwards (R39). After it, as after power-on, no invalidation has completed, so that a fetch
with the cache enabled returns any value (R147; the bit `cold` that records it is the model's, log 7). -/
def Obligations.ResetKeepsArrays : Prop :=
  State.reset.cache.cold = true ∧
  ∀ s : State, ∃ t : State, State.runMove s .hardwareReset = .next t ∧ t.cache.cold = true ∧
    t.cache.tag = s.cache.tag ∧ t.cache.valid = s.cache.valid ∧ t.cache.data = s.cache.data ∧
    (∀ k, t.cache.fb.lwvalidAt k = false) ∧ t.cache.fb.pending = [] ∧ t.cache.invLeft = 0

/-- After a hardware reset, until CACR is written (R146): every reference is cacheable, unbuffered and writable, the cache is
disabled, and no fetch changes any state of the unit. -/
def Obligations.UncachedAfterReset : Prop :=
  ∀ (s : State) (r : Ref),
    s.hardwareReset.cache.effAttr r = { cacheable := true, bufwrite := false, wp := false } ∧
    s.hardwareReset.cache.cenb = false ∧ (s.hardwareReset.fetch r).2.cache = s.hardwareReset.cache

/-! ### The step -/

/-- A step runs the decoded instruction. First, with the cache disabled, no move waiting, nothing fetched ahead and a plain
bus: the words at the pc that decode to an instruction are fetched and the instruction is executed; what the step adds before
it is that the words fetched are held (those of the instruction first, every one the word memory holds at its place from the
pc on) and the external accesses are logged. Second, with the instruction's words held already: the step is the instruction's
execution. PRESUMED, and no rule of the spec: that the instruction's second word lies at pc + 2 and the k-th word held at
pc + 2k, wrapping past the top of memory (log 34: N3 gives no pc arithmetic), and which half of a longword comes first (log
15: the byte order, decision D1). That words are held, in a list and in this order, is the model's choice (log 23), and so is
the log of accesses (log 29), and that the core executes with no move waiting (log 8), in Background Debug mode too (log
41). -/
def Obligations.StepRunsDecodedInstruction : Prop :=
  (∀ (s : State) (i : Instr) (n : Nat), s.agenda = [] → s.core.prefetch = [] → s.cache.invLeft = 0 →
    s.cache.cenb = false → s.plat.sramMap = [] → s.plat.wbuf = [] → s.plat.busErrors = [] → s.plat.devices = [] →
    s.core.pc.getLsbD 0 = false →
    decodeWords [Memory.readHalf s.plat.mem s.core.pc, Memory.readHalf s.plat.mem (s.core.pc + 2#32)] = .instr i n →
    ∃ (ws : List Half) (l : List ExtAccess),
      step s = exec i { s with
        core := { s.core with prefetch := ws }
        plat := { s.plat with log := s.plat.log ++ l } } ∧
      ws.take n = encode i ∧
      ∀ (k : Nat) (w : Half), ws[k]? = some w → w = Memory.readHalf s.plat.mem (s.core.pc + BitVec.ofNat 32 (2 * k))) ∧
  (∀ (s : State) (i : Instr) (rest : List Half), s.agenda = [] → i.WellFormed → s.core.prefetch = encode i ++ rest →
    step s = exec i s)

/-- With the cache on or off: in a coherent state with the boot rule kept and the bus quiet, the step executes the
instruction that memory holds at the pc, whatever the cache holds of it; until then only the words held (every one the word
memory holds at its place from the pc on), the cache's own arrays, buffer and sequencer and the log of accesses have changed,
and the state is still coherent (R53, R60, R65). That words are held, in a list and in this order, is the model's choice (log
23), and so is the log of accesses (log 29): R53, R60 and R65 say nothing of either. PRESUMED, and no rule of the spec: that
the second word lies at pc + 2 and the k-th word held at pc + 2k, wrapping past the top of memory (log 34: N3 gives no pc
arithmetic), and which half of a longword comes first (log 15: the byte order, decision D1). That the core executes with no
move waiting (log 8), in Background Debug mode too (log 41), is the model's choice. -/
def Obligations.CoherentStepRunsMemory : Prop :=
  ∀ (s : State) (i : Instr) (n : Nat), s.agenda = [] → s.core.prefetch = [] → s.cache.Coherent s.plat.mem →
    s.plat.Quiet → s.booted = true → s.plat.sramMap = [] → s.core.pc.getLsbD 0 = false →
    decodeWords [Memory.readHalf s.plat.mem s.core.pc, Memory.readHalf s.plat.mem (s.core.pc + 2#32)] = .instr i n →
    ∃ u : State, step s = exec i u ∧ u.core = { s.core with prefetch := u.core.prefetch } ∧
      u.core.prefetch.take n = encode i ∧
      (∀ (k : Nat) (w : Half), u.core.prefetch[k]? = some w →
        w = Memory.readHalf s.plat.mem (s.core.pc + BitVec.ofNat 32 (2 * k))) ∧
      u.plat = { s.plat with log := u.plat.log } ∧
      u.agenda = s.agenda ∧ u.reply = s.reply ∧ u.raised = s.raised ∧ u.draws = s.draws ∧
      u.cache.cacr = s.cache.cacr ∧ u.cache.acr0 = s.cache.acr0 ∧ u.cache.acr1 = s.cache.acr1 ∧
      u.cache.Coherent u.plat.mem

/-! ### Invariants -/

/-- The state after reset is sound. -/
def Obligations.ResetIsSound : Prop := State.reset.Sound

/-- Every step keeps a sound state sound: the three registers hold implemented bits only (R22, R32), the buffer's pending
longwords are at most three, distinct and not yet valid (R37, R92), the sequencer's count stays in range, and both memories
keep their canonical form. -/
def Obligations.StepKeepsSound : Prop :=
  ∀ s t : State, s.Sound → step s = .next t → t.Sound

/-- In user mode no instruction the core executes changes CACR, ACR0 or ACR1 (R123, R137 (a)): neither with no move waiting
nor as the agenda's next move. -/
def Obligations.UserModeKeepsRegisters : Prop :=
  ∀ s t : State, (s.agenda = [] ∨ ∃ rest, s.agenda = .instruction :: rest) → s.supervisor = false → step s = .next t →
    t.cache.cacr = s.cache.cacr ∧ t.cache.acr0 = s.cache.acr0 ∧ t.cache.acr1 = s.cache.acr1

/-- Only an instruction of the core, a write by the Debug module and a hardware reset change CACR, ACR0 or ACR1 (R11, R23,
R106, R117, R127, R145). -/
def Obligations.OnlyWritesChangeRegisters : Prop :=
  ∀ (s t : State) (m : Move), m.mayWriteRegisters = false → State.runMove s m = .next t →
    t.cache.cacr = s.cache.cacr ∧ t.cache.acr0 = s.cache.acr0 ∧ t.cache.acr1 = s.cache.acr1

/-- Only a fetch makes an entry of the tag array valid (R33): after any other move a valid entry was valid before, with its
tag and data. -/
def Obligations.OnlyFetchesValidateEntries : Prop :=
  ∀ (s t : State) (m : Move) (i : BitVec 5), m.fetches = false → State.runMove s m = .next t →
    t.cache.validAt i = true →
    s.cache.validAt i = true ∧ t.cache.tagAt i = s.cache.tagAt i ∧
    ∀ k, t.cache.dataAt (dataIndex i k) = s.cache.dataAt (dataIndex i k)
end

