-- ==== Sys2Proof/Laws/Address.lean ====
section
/-! SUPPORT. How the fields of an address fit together (R80). -/

namespace Sys2Proof.Machine

@[simp] theorem dataIndex_high (i : BitVec 5) (k : BitVec 2) : (dataIndex i k).extractLsb' 2 5 = i := by
  ext n hn
  interval_cases n <;> simp [dataIndex]

@[simp] theorem dataIndex_low (i : BitVec 5) (k : BitVec 2) : (dataIndex i k).extractLsb' 0 2 = k := by
  ext n hn
  interval_cases n <;> simp [dataIndex]

/-- Two data-array indices agree only for the same line and the same longword. -/
theorem dataIndex_inj {i j : BitVec 5} {k l : BitVec 2} (h : dataIndex i k = dataIndex j l) : i = j ∧ k = l :=
  ⟨by rw [← dataIndex_high i k, h, dataIndex_high], by rw [← dataIndex_low i k, h, dataIndex_low]⟩

/-- `a[8:2]` is the index of longword `lw(a)` of line `idx(a)`. -/
theorem dataIdx_eq (a : Long) : dataIdx a = dataIndex (idxOf a) (lwOf a) := by
  ext n hn
  interval_cases n <;> simp [dataIdx, dataIndex, idxOf, lwOf]

/-- The line address is the tag followed by the index. -/
theorem lineOf_eq (a : Long) : lineOf a = lineAddr (tagOf a) (idxOf a) := by
  ext n hn
  interval_cases n <;> simp [lineOf, lineAddr, idxOf, tagOf]

@[simp] theorem lineOf_lineLong (l : BitVec 28) (k : BitVec 2) : lineOf (lineLong l k) = l := by
  ext n hn
  interval_cases n <;> simp [lineOf, lineLong]

@[simp] theorem lwOf_lineLong (l : BitVec 28) (k : BitVec 2) : lwOf (lineLong l k) = k := by
  ext n hn
  interval_cases n <;> simp [lwOf, lineLong]

/-- The longword that contains an address is longword `lw(a)` of its line. -/
theorem longBase_eq (a : Long) : longBase a = lineLong (lineOf a) (lwOf a) := by
  ext n hn
  interval_cases n <;> simp [lineOf, lwOf, longBase, lineLong]

/-- The buffered line's address is its tag followed by its index. -/
@[simp] theorem FillBuffer.lineAddr_tag_idx (fb : FillBuffer) : lineAddr fb.tag fb.idx = fb.addr := by
  ext n hn
  interval_cases n <;> simp [FillBuffer.tag, FillBuffer.idx, lineAddr]

end Sys2Proof.Machine
end

