-- ==== Sys2Proof/Laws/Arrays.lean ====
section
/-! SUPPORT. Reading an entry after writing one. -/

namespace Sys2Proof.Machine

@[simp] theorem look_put_same {α : Type} {n m : Nat} (v : Vector α m) (i : BitVec n) (x : α) (h : 2 ^ n = m) :
    look (put v i x h) i h = x := by
  simp [look, put]

theorem look_put_ne {α : Type} {n m : Nat} (v : Vector α m) (i j : BitVec n) (x : α) (h : 2 ^ n = m) (hij : i ≠ j) :
    look (put v i x h) j h = look v j h := by
  have : i.toNat ≠ j.toNat := fun e => hij (BitVec.eq_of_toNat_eq e)
  simp [look, put, this]

theorem look_put {α : Type} {n m : Nat} (v : Vector α m) (i j : BitVec n) (x : α) (h : 2 ^ n = m) :
    look (put v i x h) j h = if i = j then x else look v j h := by
  split
  · next e => subst e; exact look_put_same v i x h
  · next e => exact look_put_ne v i j x h e

@[simp] theorem look_replicate {α : Type} {n m : Nat} (x : α) (i : BitVec n) (h : 2 ^ n = m) :
    look (Vector.replicate m x) i h = x := by
  simp [look]

end Sys2Proof.Machine
end

