-- ==== Sys2Proof/Laws/State.lean ====
section
/-! SUPPORT. What each update of the state leaves in each field, true by definition. -/

namespace Sys2Proof.Machine

namespace State

@[simp] theorem advance_cache (s : State) (n : Nat) : (s.advance n).cache = s.cache := rfl
@[simp] theorem advance_plat (s : State) (n : Nat) : (s.advance n).plat = s.plat := rfl
@[simp] theorem advance_agenda (s : State) (n : Nat) : (s.advance n).agenda = s.agenda := rfl
@[simp] theorem advance_reply (s : State) (n : Nat) : (s.advance n).reply = s.reply := rfl
@[simp] theorem advance_raised (s : State) (n : Nat) : (s.advance n).raised = s.raised := rfl
@[simp] theorem advance_draws (s : State) (n : Nat) : (s.advance n).draws = s.draws := rfl
@[simp] theorem advance_d (s : State) (n : Nat) : (s.advance n).core.d = s.core.d := rfl
@[simp] theorem advance_a (s : State) (n : Nat) : (s.advance n).core.a = s.core.a := rfl
@[simp] theorem advance_sr (s : State) (n : Nat) : (s.advance n).core.sr = s.core.sr := rfl
@[simp] theorem advance_pc (s : State) (n : Nat) : (s.advance n).core.pc = s.core.pc + BitVec.ofNat 32 (2 * n) := rfl

@[simp] theorem writeCtrl_cache (s : State) (rc : CtrlReg) (v : Long) :
    (s.writeCtrl rc v).cache = s.cache.writeCtrl rc v := rfl
@[simp] theorem writeCtrl_core (s : State) (rc : CtrlReg) (v : Long) : (s.writeCtrl rc v).core = s.core := rfl
@[simp] theorem writeCtrl_plat (s : State) (rc : CtrlReg) (v : Long) : (s.writeCtrl rc v).plat = s.plat := rfl
@[simp] theorem writeCtrl_agenda (s : State) (rc : CtrlReg) (v : Long) : (s.writeCtrl rc v).agenda = s.agenda := rfl
@[simp] theorem writeCtrl_raised (s : State) (rc : CtrlReg) (v : Long) : (s.writeCtrl rc v).raised = s.raised := rfl
@[simp] theorem writeCtrl_draws (s : State) (rc : CtrlReg) (v : Long) : (s.writeCtrl rc v).draws = s.draws := rfl

@[simp] theorem pushLine_cache (s : State) (v : Long) :
    (s.pushLine v).cache = s.cache.pushLine Config.cpushlClearsFillbuf v := rfl
@[simp] theorem pushLine_core (s : State) (v : Long) : (s.pushLine v).core = s.core := rfl
@[simp] theorem pushLine_plat (s : State) (v : Long) : (s.pushLine v).plat = s.plat := rfl
@[simp] theorem pushLine_agenda (s : State) (v : Long) : (s.pushLine v).agenda = s.agenda := rfl
@[simp] theorem pushLine_raised (s : State) (v : Long) : (s.pushLine v).raised = s.raised := rfl
@[simp] theorem pushLine_draws (s : State) (v : Long) : (s.pushLine v).draws = s.draws := rfl

@[simp] theorem takeException_cache (s : State) (e : Exc) : (s.takeException e).cache = s.cache := rfl
@[simp] theorem takeException_plat (s : State) (e : Exc) : (s.takeException e).plat = s.plat := rfl
@[simp] theorem takeException_agenda (s : State) (e : Exc) : (s.takeException e).agenda = s.agenda := rfl
@[simp] theorem takeException_d (s : State) (e : Exc) : (s.takeException e).core.d = s.core.d := rfl
@[simp] theorem takeException_a (s : State) (e : Exc) : (s.takeException e).core.a = s.core.a := rfl
@[simp] theorem takeException_raised (s : State) (e : Exc) : (s.takeException e).raised = s.raised ++ [e] := rfl

@[simp] theorem finishInvalidate_cache (s : State) :
    s.finishInvalidate.cache = s.cache.finishInvalidate Config.cinvClearsFillbuf := rfl
@[simp] theorem finishInvalidate_core (s : State) : s.finishInvalidate.core = s.core := rfl
@[simp] theorem finishInvalidate_plat (s : State) : s.finishInvalidate.plat = s.plat := rfl
@[simp] theorem finishInvalidate_agenda (s : State) : s.finishInvalidate.agenda = s.agenda := rfl
@[simp] theorem finishInvalidate_reply (s : State) : s.finishInvalidate.reply = s.reply := rfl
@[simp] theorem finishInvalidate_raised (s : State) : s.finishInvalidate.raised = s.raised := rfl
@[simp] theorem finishInvalidate_draws (s : State) : s.finishInvalidate.draws = s.draws := rfl

@[simp] theorem invStep_cache (s : State) : s.invStep.cache = s.cache.invStep Config.cinvClearsFillbuf := rfl
@[simp] theorem invStep_plat (s : State) : s.invStep.plat = s.plat := rfl
@[simp] theorem invStep_core (s : State) : s.invStep.core = s.core := rfl

@[simp] theorem hardwareReset_plat (s : State) : s.hardwareReset.plat = s.plat := rfl
@[simp] theorem hardwareReset_cache (s : State) : s.hardwareReset.cache = s.cache.hardwareReset s.draws := rfl
@[simp] theorem hardwareReset_d (s : State) : s.hardwareReset.core.d = s.core.d := rfl
@[simp] theorem hardwareReset_a (s : State) : s.hardwareReset.core.a = s.core.a := rfl

end State

namespace Platform

@[simp] theorem access_mem (p : Platform) (x : ExtAccess) : (p.access x).mem = p.mem := rfl
@[simp] theorem access_sram (p : Platform) (x : ExtAccess) : (p.access x).sram = p.sram := rfl
@[simp] theorem access_sramMap (p : Platform) (x : ExtAccess) : (p.access x).sramMap = p.sramMap := rfl
@[simp] theorem access_busErrors (p : Platform) (x : ExtAccess) : (p.access x).busErrors = p.busErrors := rfl
@[simp] theorem access_wbuf (p : Platform) (x : ExtAccess) : (p.access x).wbuf = p.wbuf := rfl
@[simp] theorem access_errors (p : Platform) (x : ExtAccess) : (p.access x).errors = p.errors := rfl
@[simp] theorem access_bdm (p : Platform) (x : ExtAccess) : (p.access x).bdm = p.bdm := rfl
@[simp] theorem access_log (p : Platform) (x : ExtAccess) : (p.access x).log = p.log ++ [x] := rfl

@[simp] theorem addError_mem (p : Platform) (e : PendingError) : (p.addError e).mem = p.mem := rfl
@[simp] theorem addError_sram (p : Platform) (e : PendingError) : (p.addError e).sram = p.sram := rfl
@[simp] theorem addError_sramMap (p : Platform) (e : PendingError) : (p.addError e).sramMap = p.sramMap := rfl
@[simp] theorem addError_busErrors (p : Platform) (e : PendingError) : (p.addError e).busErrors = p.busErrors := rfl
@[simp] theorem addError_wbuf (p : Platform) (e : PendingError) : (p.addError e).wbuf = p.wbuf := rfl
@[simp] theorem addError_errors (p : Platform) (e : PendingError) : (p.addError e).errors = p.errors ++ [e] := rfl
@[simp] theorem addError_bdm (p : Platform) (e : PendingError) : (p.addError e).bdm = p.bdm := rfl

@[simp] theorem access_devices (p : Platform) (x : ExtAccess) : (p.access x).devices = p.devices := rfl
@[simp] theorem access_deviceAccesses (p : Platform) (x : ExtAccess) :
    (p.access x).deviceAccesses = p.deviceAccesses := rfl
@[simp] theorem addError_devices (p : Platform) (e : PendingError) : (p.addError e).devices = p.devices := rfl
@[simp] theorem addError_deviceAccesses (p : Platform) (e : PendingError) :
    (p.addError e).deviceAccesses = p.deviceAccesses := rfl

@[simp] theorem touch_mem (p : Platform) (a : Long) : (p.touch a).mem = p.mem := by
  unfold touch; split <;> rfl
@[simp] theorem touch_sram (p : Platform) (a : Long) : (p.touch a).sram = p.sram := by
  unfold touch; split <;> rfl
@[simp] theorem touch_sramMap (p : Platform) (a : Long) : (p.touch a).sramMap = p.sramMap := by
  unfold touch; split <;> rfl
@[simp] theorem touch_busErrors (p : Platform) (a : Long) : (p.touch a).busErrors = p.busErrors := by
  unfold touch; split <;> rfl
@[simp] theorem touch_devices (p : Platform) (a : Long) : (p.touch a).devices = p.devices := by
  unfold touch; split <;> rfl
@[simp] theorem touch_wbuf (p : Platform) (a : Long) : (p.touch a).wbuf = p.wbuf := by
  unfold touch; split <;> rfl
@[simp] theorem touch_errors (p : Platform) (a : Long) : (p.touch a).errors = p.errors := by
  unfold touch; split <;> rfl
@[simp] theorem touch_bdm (p : Platform) (a : Long) : (p.touch a).bdm = p.bdm := by
  unfold touch; split <;> rfl
@[simp] theorem touch_log (p : Platform) (a : Long) : (p.touch a).log = p.log := by
  unfold touch; split <;> rfl

@[simp] theorem store_sram (p : Platform) (a : Long) (size : RefSize) (v : Long) :
    (p.store a size v).sram = p.sram := by
  unfold store; split <;> simp
@[simp] theorem store_sramMap (p : Platform) (a : Long) (size : RefSize) (v : Long) :
    (p.store a size v).sramMap = p.sramMap := by
  unfold store; split <;> simp
@[simp] theorem store_busErrors (p : Platform) (a : Long) (size : RefSize) (v : Long) :
    (p.store a size v).busErrors = p.busErrors := by
  unfold store; split <;> simp
@[simp] theorem store_devices (p : Platform) (a : Long) (size : RefSize) (v : Long) :
    (p.store a size v).devices = p.devices := by
  unfold store; split <;> simp
@[simp] theorem store_wbuf (p : Platform) (a : Long) (size : RefSize) (v : Long) :
    (p.store a size v).wbuf = p.wbuf := by
  unfold store; split <;> simp
@[simp] theorem store_errors (p : Platform) (a : Long) (size : RefSize) (v : Long) :
    (p.store a size v).errors = p.errors := by
  unfold store; split <;> simp
@[simp] theorem store_bdm (p : Platform) (a : Long) (size : RefSize) (v : Long) :
    (p.store a size v).bdm = p.bdm := by
  unfold store; split <;> simp
@[simp] theorem store_log (p : Platform) (a : Long) (size : RefSize) (v : Long) :
    (p.store a size v).log = p.log := by
  unfold store; split <;> simp

/-- A platform without devices has none at any address. -/
@[simp] theorem deviceAt_none (p : Platform) (a : Long) (h : p.devices = []) : p.deviceAt a = false := by
  simp [deviceAt, h]

/-- An access that no device answers has no side effect. -/
@[simp] theorem touch_none (p : Platform) (a : Long) (h : p.deviceAt a = false) : p.touch a = p := by
  simp [touch, h]

/-- A store that no device answers goes to memory. -/
theorem store_none (p : Platform) (a : Long) (size : RefSize) (v : Long) (h : p.deviceAt a = false) :
    p.store a size v = { p with mem := Memory.writeSized p.mem a size v } := by
  simp [store, h]

/-- A read that no device answers gives what memory holds. -/
theorem externalRead_none (p : Platform) (a : Long) (size : RefSize) (h : p.deviceAt a = false) :
    p.externalRead a size = Memory.readSized p.mem a size := by
  simp [externalRead, h]

@[simp] theorem deviceAt_access (p : Platform) (x : ExtAccess) (a : Long) :
    (p.access x).deviceAt a = p.deviceAt a := rfl
@[simp] theorem externalRead_access (p : Platform) (x : ExtAccess) (a : Long) (size : RefSize) :
    (p.access x).externalRead a size = p.externalRead a size := rfl
@[simp] theorem busErrorAt_access (p : Platform) (x : ExtAccess) (a : Long) :
    (p.access x).busErrorAt a = p.busErrorAt a := rfl

end Platform

namespace Cache

@[simp] theorem setMru_tag (c : Cache) (b : Bool) : (c.setMru b).tag = c.tag := rfl
@[simp] theorem setMru_valid (c : Cache) (b : Bool) : (c.setMru b).valid = c.valid := rfl
@[simp] theorem setMru_data (c : Cache) (b : Bool) : (c.setMru b).data = c.data := rfl
@[simp] theorem setMru_cacr (c : Cache) (b : Bool) : (c.setMru b).cacr = c.cacr := rfl
@[simp] theorem setMru_acr0 (c : Cache) (b : Bool) : (c.setMru b).acr0 = c.acr0 := rfl
@[simp] theorem setMru_acr1 (c : Cache) (b : Bool) : (c.setMru b).acr1 = c.acr1 := rfl
@[simp] theorem setMru_invLeft (c : Cache) (b : Bool) : (c.setMru b).invLeft = c.invLeft := rfl
@[simp] theorem setMru_cold (c : Cache) (b : Bool) : (c.setMru b).cold = c.cold := rfl

@[simp] theorem loadBuffer_tag (c : Cache) (a : Long) (b : Bool) : (c.loadBuffer a b).tag = c.tag := rfl
@[simp] theorem loadBuffer_valid (c : Cache) (a : Long) (b : Bool) : (c.loadBuffer a b).valid = c.valid := rfl
@[simp] theorem loadBuffer_data (c : Cache) (a : Long) (b : Bool) : (c.loadBuffer a b).data = c.data := rfl
@[simp] theorem loadBuffer_cacr (c : Cache) (a : Long) (b : Bool) : (c.loadBuffer a b).cacr = c.cacr := rfl
@[simp] theorem loadBuffer_acr0 (c : Cache) (a : Long) (b : Bool) : (c.loadBuffer a b).acr0 = c.acr0 := rfl
@[simp] theorem loadBuffer_acr1 (c : Cache) (a : Long) (b : Bool) : (c.loadBuffer a b).acr1 = c.acr1 := rfl
@[simp] theorem loadBuffer_invLeft (c : Cache) (a : Long) (b : Bool) : (c.loadBuffer a b).invLeft = c.invLeft := rfl
@[simp] theorem loadBuffer_cold (c : Cache) (a : Long) (b : Bool) : (c.loadBuffer a b).cold = c.cold := rfl

end Cache

end Sys2Proof.Machine
end

