-- ==== Sys2Proof/Laws/Lines.lean ====
section
/-! SUPPORT. What the operations on the arrays and the buffer can do. -/

namespace Sys2Proof.Machine

/-- The line transfer either replaces the whole line at the buffered index, or does nothing (R95). -/
theorem Cache.transfer_cases (c : Cache) :
    (c.transferAllowed = true ∧
      c.transfer = { c with tag := put c.tag c.fb.idx c.fb.tag, valid := put c.valid c.fb.idx true,
                            data := putLine c.data c.fb.idx c.fb }) ∨
    (c.transferAllowed = false ∧ c.transfer = c) := by
  unfold Cache.transfer
  cases h : c.transferAllowed <;> simp

@[simp] theorem Cache.transfer_fb (c : Cache) : c.transfer.fb = c.fb := by
  obtain ⟨-, h⟩ | ⟨-, h⟩ := c.transfer_cases <;> rw [h]

@[simp] theorem Cache.transfer_cacr (c : Cache) : c.transfer.cacr = c.cacr := by
  obtain ⟨-, h⟩ | ⟨-, h⟩ := c.transfer_cases <;> rw [h]

@[simp] theorem Cache.transfer_acr0 (c : Cache) : c.transfer.acr0 = c.acr0 := by
  obtain ⟨-, h⟩ | ⟨-, h⟩ := c.transfer_cases <;> rw [h]

@[simp] theorem Cache.transfer_acr1 (c : Cache) : c.transfer.acr1 = c.acr1 := by
  obtain ⟨-, h⟩ | ⟨-, h⟩ := c.transfer_cases <;> rw [h]

@[simp] theorem Cache.transfer_invLeft (c : Cache) : c.transfer.invLeft = c.invLeft := by
  obtain ⟨-, h⟩ | ⟨-, h⟩ := c.transfer_cases <;> rw [h]

@[simp] theorem Cache.transfer_cold (c : Cache) : c.transfer.cold = c.cold := by
  obtain ⟨-, h⟩ | ⟨-, h⟩ := c.transfer_cases <;> rw [h]

/-- After a longword's arrival exactly it and what was valid before is valid (R91, R92). -/
theorem FillBuffer.arrive_lwvalidAt (fb : FillBuffer) (k j : BitVec 2) (v : Long) :
    (fb.arrive k v).lwvalidAt j = if k = j then true else fb.lwvalidAt j := by
  simp [FillBuffer.arrive, FillBuffer.lwvalidAt, look_put]

/-- After a longword's arrival the buffer holds it, and what it held elsewhere (R91, R92). -/
theorem FillBuffer.arrive_dataAt (fb : FillBuffer) (k j : BitVec 2) (v : Long) :
    (fb.arrive k v).dataAt j = if k = j then v else fb.dataAt j := by
  simp [FillBuffer.arrive, FillBuffer.dataAt, look_put]

@[simp] theorem FillBuffer.arrive_addr (fb : FillBuffer) (k : BitVec 2) (v : Long) : (fb.arrive k v).addr = fb.addr := rfl
@[simp] theorem FillBuffer.arrive_mru (fb : FillBuffer) (k : BitVec 2) (v : Long) : (fb.arrive k v).mru = fb.mru := rfl
@[simp] theorem FillBuffer.arrive_cacheable (fb : FillBuffer) (k : BitVec 2) (v : Long) :
    (fb.arrive k v).cacheable = fb.cacheable := rfl
@[simp] theorem FillBuffer.arrive_pending (fb : FillBuffer) (k : BitVec 2) (v : Long) :
    (fb.arrive k v).pending = fb.pending := rfl

@[simp] theorem FillBuffer.empty_lwvalidAt (fb : FillBuffer) (k : BitVec 2) : fb.empty.lwvalidAt k = false := by
  simp [FillBuffer.empty, FillBuffer.lwvalidAt]

@[simp] theorem FillBuffer.empty_pending (fb : FillBuffer) : fb.empty.pending = [] := rfl
@[simp] theorem FillBuffer.empty_addr (fb : FillBuffer) : fb.empty.addr = fb.addr := rfl

/-- A buffer hit is not a longword still on its way. -/
theorem FillBuffer.hit_not_onItsWay {fb : FillBuffer} {a : Long} (h : fb.hit a = true) : fb.onItsWay a = false := by
  simp only [FillBuffer.hit, Bool.and_eq_true] at h
  simp [FillBuffer.onItsWay, h.2]

/-- One longword of a line, four cases. -/
theorem lw_cases (k : BitVec 2) : k = 0#2 ∨ k = 1#2 ∨ k = 2#2 ∨ k = 3#2 := by
  revert k
  decide

/-- The line is entire when every longword is valid (R95). -/
theorem FillBuffer.entire_iff (fb : FillBuffer) : fb.entire = true ↔ ∀ k, fb.lwvalidAt k = true := by
  simp only [FillBuffer.entire, Bool.and_eq_true]
  constructor
  · rintro ⟨⟨⟨h0, h1⟩, h2⟩, h3⟩ k
    obtain rfl | rfl | rfl | rfl := lw_cases k <;> assumption
  · exact fun h => ⟨⟨⟨h _, h _⟩, h _⟩, h _⟩

/-- The four entries a line writes, and no others (R34, R95). -/
theorem putLine_dataIndex (data : Vector Long 128) (i j : BitVec 5) (fb : FillBuffer) (k : BitVec 2) :
    look (putLine data i fb) (dataIndex j k) = if i = j then fb.dataAt k else look data (dataIndex j k) := by
  have hi : ∀ l, dataIndex i l = dataIndex j k ↔ i = j ∧ l = k :=
    fun l => ⟨dataIndex_inj, by rintro ⟨rfl, rfl⟩; rfl⟩
  simp only [putLine, look_put, hi]
  by_cases h : i = j
  · obtain rfl | rfl | rfl | rfl := lw_cases k <;> simp [h]
  · simp [h]

/-- One cycle of a running sequence (R111): the entry it clears, and what its last cycle does besides. -/
theorem Cache.invStep_succ (clears : Bool) (c : Cache) (n : Nat) (h : c.invLeft = n + 1) :
    c.invStep clears = { c with
      valid := put c.valid (BitVec.ofNat 5 n) false
      invLeft := n
      cold := if n = 0 then false else c.cold
      fb := if n = 0 ∧ clears = true then c.fb.empty else c.fb } := by
  unfold Cache.invStep
  simp only [h]
  split
  · next hn => cases clears <;> simp [Cache.endInvalidate, hn]
  · next hn => simp [hn]

/-- With no sequence running the sequencer does nothing. -/
theorem Cache.invStep_idle (clears : Bool) (c : Cache) (h : c.invLeft = 0) : c.invStep clears = c := by
  simp [Cache.invStep, h]

/-- A property that one cycle of the sequencer keeps is kept by any number of them. -/
theorem Cache.invSteps_keeps {P : Cache → Prop} (clears : Bool) (h : ∀ c, P c → P (c.invStep clears)) (n : Nat) :
    ∀ c, P c → P (Cache.invSteps clears n c) := by
  induction n with
  | zero => exact fun c hc => hc
  | succ n ih => exact fun c hc => ih _ (h c hc)

/-- A part of the unit that one cycle of the sequencer leaves alone is left alone by the hold. -/
theorem Cache.finishInvalidate_part {α : Type} (part : Cache → α) (clears : Bool)
    (h : ∀ (c : Cache) (n : Nat) (valid : Vector Bool 32) (cold : Bool) (fb : FillBuffer),
      part { c with valid := valid, invLeft := n, cold := cold, fb := fb } = part c) (c : Cache) :
    part (c.finishInvalidate clears) = part c := by
  refine Cache.invSteps_keeps (P := fun d => part d = part c) clears (fun d hd => ?_) _ c rfl
  cases hn : d.invLeft with
  | zero => rw [Cache.invStep_idle _ _ hn]; exact hd
  | succ n => rw [Cache.invStep_succ _ _ n hn, h]; exact hd

@[simp] theorem Cache.finishInvalidate_cacr (b : Bool) (c : Cache) : (c.finishInvalidate b).cacr = c.cacr :=
  Cache.finishInvalidate_part (·.cacr) b (fun _ _ _ _ _ => rfl) c
@[simp] theorem Cache.finishInvalidate_acr0 (b : Bool) (c : Cache) : (c.finishInvalidate b).acr0 = c.acr0 :=
  Cache.finishInvalidate_part (·.acr0) b (fun _ _ _ _ _ => rfl) c
@[simp] theorem Cache.finishInvalidate_acr1 (b : Bool) (c : Cache) : (c.finishInvalidate b).acr1 = c.acr1 :=
  Cache.finishInvalidate_part (·.acr1) b (fun _ _ _ _ _ => rfl) c
@[simp] theorem Cache.finishInvalidate_tag (b : Bool) (c : Cache) : (c.finishInvalidate b).tag = c.tag :=
  Cache.finishInvalidate_part (·.tag) b (fun _ _ _ _ _ => rfl) c
@[simp] theorem Cache.finishInvalidate_data (b : Bool) (c : Cache) : (c.finishInvalidate b).data = c.data :=
  Cache.finishInvalidate_part (·.data) b (fun _ _ _ _ _ => rfl) c

/-- CPUSHL's effect (R113, R114): with CPDI = 1 none; with CPDI = 0 the one entry, and the buffer if it is that entry's. -/
theorem Cache.pushLine_cases (clears : Bool) (v : Long) (c : Cache) :
    (c.cpdi = true ∧ c.pushLine clears v = c) ∨
    (c.cpdi = false ∧ c.pushLine clears v = { c with
      valid := put c.valid (idxOf v) false
      fb := if clears = true ∧ idxOf v = c.fb.idx then c.fb.empty else c.fb }) := by
  unfold Cache.pushLine Cache.invalidateEntry
  cases h : c.cpdi <;> simp

/-- A write to a control register (R120 to R122), the register and, for CACR with bit 24 set, the sequence. -/
theorem Cache.writeCtrl_cases (c : Cache) (rc : CtrlReg) (v : Long) :
    (rc = .cacr ∧ c.writeCtrl rc v =
      { c with cacr := v &&& Config.cacrMask, invLeft := if cinvBit v = true then Config.invCycles else c.invLeft }) ∨
    (rc = .acr0 ∧ c.writeCtrl rc v = { c with acr0 := v &&& Config.acrMask }) ∨
    (rc = .acr1 ∧ c.writeCtrl rc v = { c with acr1 := v &&& Config.acrMask }) := by
  cases rc
  · left
    refine ⟨rfl, ?_⟩
    unfold Cache.writeCtrl
    cases h : cinvBit v <;> simp [Cache.startInvalidate]
  · exact .inr (.inl ⟨rfl, rfl⟩)
  · exact .inr (.inr ⟨rfl, rfl⟩)

end Sys2Proof.Machine
end

