-- ==== Sys2Proof/Laws/Fetch.lean ====
section
/-! SUPPORT. What a fetch can do, said once: it is built from eight kinds of change, so a property that each of them keeps is
kept by every fetch. -/

namespace Sys2Proof.Machine

/-- The state with the fill buffer replaced. -/
def State.withFb (s : State) (fb : FillBuffer) : State := { s with cache := { s.cache with fb := fb } }

/-- The changes a fetch is made of, past the hold of R112. -/
structure FetchClosed (P : State → Prop) : Prop where
  /-- The line-fill engine brings in a longword (R92). -/
  fill : ∀ s, P s → P s.fillStep
  /-- Buffered writes are performed before the external fetch, if they are (R48). -/
  settle : ∀ s, P s → P { s with plat := s.plat.settleWrites }
  /-- An external access is made. -/
  access : ∀ s x, P s → P { s with plat := s.plat.access x }
  /-- A device has answered an access (R45). -/
  touch : ∀ s a, P s → P { s with plat := s.plat.touch a }
  /-- The indicator changes (R93, R94). -/
  mru : ∀ s b, P s → P { s with cache := s.cache.setMru b }
  /-- The old buffer is judged and the buffer taken over (R91, R95). -/
  load : ∀ s a b, P s → P { s with cache := s.cache.transfer.loadBuffer a b }
  /-- The longword of a longword-sized miss arrives (R99). -/
  arriveOne : ∀ s a, P s → (∀ k, s.cache.fb.lwvalidAt k = false) → s.cache.fb.pending = [] →
    s.cache.fb.addr = lineOf a →
    P { s.withFb (s.cache.fb.arrive (lwOf a) (s.plat.externalRead (longBase a) .longword)) with
      plat := s.plat.touch a }
  /-- The critical longword of a line arrives, the other three pending (R91). -/
  arriveLine : ∀ s a, P s → (∀ k, s.cache.fb.lwvalidAt k = false) → s.cache.fb.pending = [] →
    s.cache.fb.addr = lineOf a →
    P { s.withFb { (s.cache.fb.arrive (lwOf a) (s.plat.externalRead (longBase a) .longword)) with
        pending := restOfLine (lwOf a) } with
      plat := s.plat.touch a }

/-- A longword-sized external fetch: a bus error or the longword the external bus delivers; of the state only the bus side
changes. -/
theorem State.extLongword_cases (s : State) (a : Long) :
    ((s.extLongword a).1 = .busError ∧
      (s.extLongword a).2 = { s with plat := s.plat.settleWrites.access (.fetchLongword (longBase a)) }) ∨
    ((s.extLongword a).1 = .longword (s.plat.settleWrites.externalRead (longBase a) .longword) ∧
      (s.extLongword a).2 = { s with plat := (s.plat.settleWrites.access (.fetchLongword (longBase a))).touch a }) := by
  unfold State.extLongword
  simp only
  split
  · exact .inl ⟨rfl, rfl⟩
  · exact .inr ⟨rfl, rfl⟩

namespace FetchClosed

variable {P : State → Prop}

theorem fillSteps (h : FetchClosed P) (n : Nat) : ∀ s, P s → P (State.fillSteps n s) := by
  induction n with
  | zero => exact fun s hs => hs
  | succ n ih => exact fun s hs => ih _ (h.fill s hs)

theorem await (h : FetchClosed P) (a : Long) (n : Nat) : ∀ s, P s → P (State.awaitLongword a n s) := by
  induction n with
  | zero => exact fun s hs => hs
  | succ n ih =>
    intro s hs
    unfold State.awaitLongword
    split
    · exact ih _ (h.fill s hs)
    · exact hs

theorem settleAccess (h : FetchClosed P) (s : State) (x : ExtAccess) (hs : P s) :
    P { s with plat := s.plat.settleWrites.access x } :=
  h.access { s with plat := s.plat.settleWrites } x (h.settle s hs)

theorem extLongword (h : FetchClosed P) (s : State) (a : Long) (hs : P s) : P (s.extLongword a).2 := by
  have := h.settleAccess s (.fetchLongword (longBase a)) hs
  unfold State.extLongword
  simp only
  split
  · exact this
  · exact h.touch _ a this

theorem extWord (h : FetchClosed P) (s : State) (a : Long) (hs : P s) : P (s.extWord a).2 := by
  have := h.settleAccess s (.fetchWord a) hs
  unfold State.extWord
  simp only
  split
  · exact this
  · exact h.touch _ a this

theorem answerArray (h : FetchClosed P) (s : State) (a : Long) (hs : P s) : P (s.answerArray a).2 := by
  unfold State.answerArray Cache.noteArrayHit
  split
  · exact h.mru s false hs
  · exact hs

theorem lineFetch (h : FetchClosed P) (s : State) (a : Long) (hs : P s)
    (hv : ∀ k, s.cache.fb.lwvalidAt k = false) (hp : s.cache.fb.pending = []) (ha : s.cache.fb.addr = lineOf a) :
    P (s.lineFetch a).2 := by
  have h1 := h.access _ (.beat (longBase a)) (h.settleAccess s (.fetchLine (lineBase a)) hs)
  unfold State.lineFetch
  simp only
  split
  · exact h1
  · exact h.arriveLine
      { s with plat := (s.plat.settleWrites.access (.fetchLine (lineBase a))).access (.beat (longBase a)) } a h1 hv hp ha

theorem longwordFetch (h : FetchClosed P) (s : State) (a : Long) (hs : P s)
    (hv : ∀ k, s.cache.fb.lwvalidAt k = false) (hp : s.cache.fb.pending = []) (ha : s.cache.fb.addr = lineOf a) :
    P (s.longwordFetch a).2 := by
  have h1 := h.settleAccess s (.fetchLongword (longBase a)) hs
  unfold State.longwordFetch
  obtain ⟨e1, e2⟩ | ⟨e1, e2⟩ := s.extLongword_cases a
  · rw [show s.extLongword a = (.busError, { s with plat := s.plat.settleWrites.access (.fetchLongword (longBase a)) })
      from Prod.ext e1 e2]
    exact h1
  · rw [show s.extLongword a = (.longword (s.plat.settleWrites.externalRead (longBase a) .longword),
      { s with plat := (s.plat.settleWrites.access (.fetchLongword (longBase a))).touch a }) from Prod.ext e1 e2]
    exact h.arriveOne { s with plat := s.plat.settleWrites.access (.fetchLongword (longBase a)) } a h1 hv hp ha

theorem miss (h : FetchClosed P) (s : State) (a : Long) (b : Bool) (hs : P s) : P (s.miss a b).2 := by
  have h1 := h.load s.finishFill a b (h.fillSteps s.cache.fb.pending.length s hs)
  unfold State.miss
  simp only
  split
  · exact h.lineFetch _ a h1 (fun k => look_replicate _ k _) rfl rfl
  · exact h.longwordFetch _ a h1 (fun k => look_replicate _ k _) rfl rfl

/-- Whatever a fetch past the hold does, it keeps what each of the eight changes keeps. -/
theorem cacheFetch (h : FetchClosed P) (s : State) (r : Ref) (hs : P s) : P (s.cacheFetch r).2 := by
  unfold State.cacheFetch State.bufferedFetch State.noncacheableFetch State.uncachedFetch
  simp only
  have hw := h.await r.addr s.cache.fb.pending.length s hs
  split
  · split
    · split
      · exact h.mru _ true hw
      · split
        · exact h.answerArray _ _ hw
        · exact h.miss _ _ _ hw
    · split
      · exact h.answerArray _ _ hs
      · exact h.extLongword _ _ hs
  · split
    · exact h.extWord _ _ hs
    · exact h.extLongword _ _ hs

end FetchClosed

/-- A cold answer changes the state only by the draw. -/
theorem coldAnswer_state (o : Fetched × State) :
    (coldAnswer o).2 = o.2 ∨ (coldAnswer o).2 = { o.2 with draws := o.2.draws + 1 } := by
  obtain ⟨f, t⟩ := o
  cases f
  · exact .inr rfl
  · exact .inr rfl
  · exact .inl rfl

/-- What a fetch keeps: what the rest of the invalidate-all sequence, the eight changes and a draw keep. -/
theorem fetch_keeps {P : State → Prop} (h : FetchClosed P) (hdraw : ∀ s, P s → P { s with draws := s.draws + 1 })
    (hhold : ∀ s, P s → P s.finishInvalidate) (s : State) (r : Ref) (hs : P s) : P (s.fetch r).2 := by
  have h1 := hhold s hs
  have h2 := h.cacheFetch _ r h1
  unfold State.fetch
  simp only
  split
  · exact h1
  · split
    · obtain e | e := coldAnswer_state (State.cacheFetch s.finishInvalidate r) <;> rw [e]
      · exact h2
      · exact hdraw _ h2
    · exact h2

/-- With no sequence running the hold does nothing. -/
@[simp] theorem State.finishInvalidate_idle (s : State) (h : s.cache.invLeft = 0) : s.finishInvalidate = s := by
  simp [State.finishInvalidate, Cache.finishInvalidate, h, Cache.invSteps]

/-- With no buffered write there is nothing to settle. -/
@[simp] theorem Platform.settleWrites_nil (p : Platform) (h : p.wbuf = []) : p.settleWrites = p := by
  simp [Platform.settleWrites, h]

/-- With nothing pending there is nothing to await. -/
@[simp] theorem State.awaitLongword_idle (a : Long) (s : State) (h : s.cache.fb.pending = []) (n : Nat) :
    State.awaitLongword a n s = s := by
  cases n <;> simp [State.awaitLongword, FillBuffer.onItsWay, h]

@[simp] theorem State.finishFill_idle (s : State) (h : s.cache.fb.pending = []) : s.finishFill = s := by
  simp [State.finishFill, h, State.fillSteps]

end Sys2Proof.Machine
end

