-- ==== Sys2Proof/Laws/Memory.lean ====
section
/-! SUPPORT. The laws of memory: a read after a write, and that every memory operation keeps the canonical form. -/

namespace Sys2Proof.Machine

theorem Memory.readByte_below {lo : Nat} {m : Memory} {a : Nat} (h : Memory.wfFrom lo m = true) (ha : a < lo) :
    m.readByte a = Config.unlistedByte := by
  induction m generalizing lo with
  | nil => rfl
  | cons p rest ih =>
    obtain ⟨b, w⟩ := p
    simp only [Memory.wfFrom, Bool.and_eq_true, decide_eq_true_eq] at h
    have hne : a ≠ b := by omega
    simp only [Memory.readByte, hne, if_false]
    exact ih h.2 (by omega)

theorem Memory.wfFrom_mono {lo lo' : Nat} {m : Memory} (h : Memory.wfFrom lo m = true) (hle : lo' ≤ lo) :
    Memory.wfFrom lo' m = true := by
  cases m with
  | nil => rfl
  | cons p rest =>
    obtain ⟨b, w⟩ := p
    simp only [Memory.wfFrom, Bool.and_eq_true, decide_eq_true_eq] at h ⊢
    exact ⟨⟨⟨by omega, h.1.1.2⟩, h.1.2⟩, h.2⟩

theorem Memory.wfFrom_writeByte {lo : Nat} {m : Memory} {a : Nat} {v : Byte} (h : Memory.wfFrom lo m = true)
    (hlo : lo ≤ a) (ha : a < 4294967296) : Memory.wfFrom lo (m.writeByte a v) = true := by
  induction m generalizing lo with
  | nil => by_cases hv : v = Config.unlistedByte <;> simp [Memory.writeByte, Memory.wfFrom, hv, hlo, ha]
  | cons p rest ih =>
    obtain ⟨b, w⟩ := p
    have h' := h
    simp only [Memory.wfFrom, Bool.and_eq_true, decide_eq_true_eq] at h
    obtain ⟨⟨⟨h1, h2⟩, h3⟩, h4⟩ := h
    simp only [Memory.writeByte]
    split
    · next hab =>
      split
      · exact h'
      · next hv => simp [Memory.wfFrom, hlo, ha, hv, h2, h3, h4, Nat.succ_le_of_lt hab]
    · next hab =>
      split
      · next e =>
        subst e
        split
        · exact Memory.wfFrom_mono h4 (by omega)
        · next hv => simp [Memory.wfFrom, hlo, ha, hv, h4]
      · next hne =>
        have : Memory.wfFrom (b + 1) (Memory.writeByte rest a v) = true := ih h4 (by omega)
        simp [Memory.wfFrom, h1, h2, h3, this]

theorem Memory.wf_writeByte {m : Memory} {a : Nat} {v : Byte} (h : m.wf = true) (ha : a < 4294967296) :
    (m.writeByte a v).wf = true :=
  Memory.wfFrom_writeByte h (Nat.zero_le a) ha

theorem Memory.readByte_writeByte_from {lo : Nat} {m : Memory} {a b : Nat} {v : Byte}
    (h : Memory.wfFrom lo m = true) :
    (m.writeByte a v).readByte b = if b = a then v else m.readByte b := by
  induction m generalizing lo with
  | nil =>
    by_cases hv : v = Config.unlistedByte <;> by_cases hb : b = a <;> simp [Memory.writeByte, Memory.readByte, hv, hb]
  | cons p rest ih =>
    obtain ⟨c, w⟩ := p
    simp only [Memory.wfFrom, Bool.and_eq_true, decide_eq_true_eq] at h
    obtain ⟨⟨⟨h1, h2⟩, h3⟩, h4⟩ := h
    have below : ∀ x, x ≤ c → Memory.readByte rest x = Config.unlistedByte :=
      fun x hx => Memory.readByte_below h4 (by omega)
    simp only [Memory.writeByte]
    split
    · next hac =>
      split
      · next hv =>
        by_cases hb : b = a
        · subst hb
          have : b ≠ c := by omega
          simp [Memory.readByte, this, below b (by omega), hv]
        · simp [hb]
      · next hv => by_cases hb : b = a <;> simp [Memory.readByte, hb]
    · next hac =>
      split
      · next e =>
        subst e
        split
        · next hv =>
          by_cases hb : b = a
          · subst hb
            simp [below b (Nat.le_refl b), hv]
          · simp [Memory.readByte, hb]
        · next hv => by_cases hb : b = a <;> simp [Memory.readByte, hb]
      · next hne =>
        have := ih h4
        by_cases hbc : b = c
        · subst hbc
          have : b ≠ a := fun e => hne e.symm
          simp [Memory.readByte, this]
        · simp [Memory.readByte, hbc, this]

theorem Memory.readByte_writeByte {m : Memory} (h : m.wf = true) (a b : Nat) (v : Byte) :
    (m.writeByte a v).readByte b = if b = a then v else m.readByte b :=
  Memory.readByte_writeByte_from h

theorem Memory.wf_writeBytes {m : Memory} {a : Long} {bs : List Byte} (h : m.wf = true) :
    (m.writeBytes a bs).wf = true := by
  induction bs generalizing m a with
  | nil => exact h
  | cons b rest ih => exact ih (Memory.wf_writeByte h a.isLt)

theorem Memory.wf_writeSized {m : Memory} {a : Long} {size : RefSize} {v : Long} (h : m.wf = true) :
    (m.writeSized a size v).wf = true :=
  Memory.wf_writeBytes h

@[simp] theorem RefSize.split_length (size : RefSize) (v : Long) : (size.split v).length = size.bytes := by
  cases size <;> rfl

/-- A byte outside the bytes stored reads as before. -/
theorem Memory.readByte_writeBytes_outside {m : Memory} {a : Long} {bs : List Byte} {b : Long} (h : m.wf = true)
    (hb : ∀ j < bs.length, b ≠ a + BitVec.ofNat 32 j) : (m.writeBytes a bs).readByte b.toNat = m.readByte b.toNat := by
  induction bs generalizing m a with
  | nil => rfl
  | cons x rest ih =>
    have h0 : b ≠ a := by simpa using hb 0 (by simp)
    have hne : b.toNat ≠ a.toNat := fun e => h0 (BitVec.eq_of_toNat_eq e)
    rw [Memory.writeBytes, ih (Memory.wf_writeByte h a.isLt), Memory.readByte_writeByte h, if_neg hne]
    intro j hj
    have := hb (j + 1) (by simpa using hj)
    rwa [show a + BitVec.ofNat 32 (j + 1) = a + 1#32 + BitVec.ofNat 32 j by
      rw [BitVec.add_assoc]; congr 1; rw [← BitVec.ofNat_add, Nat.add_comm]] at this

/-- The byte addresses of an operand, as the addresses stored to are written elsewhere. -/
theorem mem_operandBytes {a b : Long} {size : RefSize} :
    b ∈ operandBytes a size ↔ ∃ j < size.bytes, b = a + BitVec.ofNat 32 j := by
  simp [operandBytes, eq_comm]

/-- A read depends on the bytes of its operand alone. -/
theorem Memory.readSized_congr {m n : Memory} {a : Long} {size : RefSize}
    (h : ∀ b ∈ operandBytes a size, m.readByte b.toNat = n.readByte b.toNat) : m.readSized a size = n.readSized a size := by
  have k : ∀ j < size.bytes, m.readByte (a + BitVec.ofNat 32 j).toNat = n.readByte (a + BitVec.ofNat 32 j).toNat :=
    fun j hj => h _ (mem_operandBytes.mpr ⟨j, hj, rfl⟩)
  have k0 := k 0
  have k1 := k 1
  have k2 := k 2
  have k3 := k 3
  cases size <;> simp_all [Memory.readSized, Memory.readHalf, Memory.readLong, RefSize.bytes]

/-- Writing an operand leaves what is read of an operand that shares no byte with it. -/
theorem Memory.readSized_writeSized_disjoint {m : Memory} {a b : Long} {size size' : RefSize} {v : Long} (h : m.wf = true)
    (hb : ∀ x ∈ operandBytes a size, x ∉ operandBytes b size') :
    (m.writeSized b size' v).readSized a size = m.readSized a size := by
  refine Memory.readSized_congr fun x hx => Memory.readByte_writeBytes_outside h fun j hj e => hb x hx ?_
  exact mem_operandBytes.mpr ⟨j, by simpa using hj, e⟩

/-- The upper half of a longword is the word at its address (R43). -/
theorem Memory.readLong_high (m : Memory) (a : Long) : (m.readLong a).extractLsb' 16 16 = m.readHalf a := by
  simp only [Memory.readLong, Memory.readHalf]
  generalize m.readByte a.toNat = w
  generalize m.readByte (a + 1#32).toNat = x
  generalize m.readByte (a + 2#32).toNat = y
  generalize m.readByte (a + 3#32).toNat = z
  ext n hn
  interval_cases n <;> simp

/-- The lower half of a longword is the word two bytes on (R43). -/
theorem Memory.readLong_low (m : Memory) (a : Long) : (m.readLong a).extractLsb' 0 16 = m.readHalf (a + 2#32) := by
  have e : a + 2#32 + 1#32 = a + 3#32 := by rw [BitVec.add_assoc]; rfl
  simp only [Memory.readLong, Memory.readHalf, e]
  generalize m.readByte a.toNat = w
  generalize m.readByte (a + 1#32).toNat = x
  generalize m.readByte (a + 2#32).toNat = y
  generalize m.readByte (a + 3#32).toNat = z
  ext n hn
  interval_cases n <;> simp

end Sys2Proof.Machine
end

