-- ==== Sys2Proof/Laws/Ops.lean ====
section
/-! SUPPORT. For each shared operation, once, everything it can do: the cases a proof takes instead of unfolding it. -/

namespace Sys2Proof.Machine

/-! ### The bus controller -/

/-- A store as the external bus delivers it (R45): a device has answered one more access, or memory takes the value. -/
theorem Platform.store_cases (p : Platform) (a : Long) (size : RefSize) (v : Long) :
    (p.deviceAt a = true ∧ p.store a size v = { p with deviceAccesses := p.deviceAccesses + 1 }) ∨
    (p.deviceAt a = false ∧ p.store a size v = { p with mem := Memory.writeSized p.mem a size v }) := by
  unfold Platform.store Platform.touch
  cases h : p.deviceAt a <;> simp

/-- A store keeps memory in canonical form. -/
theorem Platform.store_wf {p : Platform} {a : Long} {size : RefSize} {v : Long} (h : Memory.wf p.mem = true) :
    Memory.wf (p.store a size v).mem = true := by
  obtain ⟨-, e⟩ | ⟨-, e⟩ := p.store_cases a size v <;> rw [e]
  · exact h
  · exact Memory.wf_writeSized h

/-- Another bus master's store (R51, R148): a bus error of its own, or a store of one byte. -/
theorem Platform.busMasterStore_cases (p : Platform) (a : Long) (v : Byte) :
    (p.busErrorAt a = true ∧ p.busMasterStore a v = p) ∨
    (p.busErrorAt a = false ∧ p.busMasterStore a v = p.store a .byte (v.setWidth 32)) := by
  unfold Platform.busMasterStore
  cases h : p.busErrorAt a <;> simp

/-- An operand write on the bus (R75, R131): an access error is noted, or the value is stored. -/
theorem Platform.performWrite_cases (p : Platform) (w : BusWrite) :
    (p.busErrorAt w.addr = true ∧ p.performWrite w =
      { p with log := p.log ++ [.operandWrite w.addr w.size],
               errors := p.errors ++ [{ src := w.src, cause := .busError }] }) ∨
    (p.busErrorAt w.addr = false ∧ p.performWrite w =
      (p.access (.operandWrite w.addr w.size)).store w.addr w.size w.value) := by
  unfold Platform.performWrite
  cases h : p.busErrorAt w.addr
  · exact .inr ⟨rfl, rfl⟩
  · exact .inl ⟨rfl, rfl⟩

/-- A property that every operand write on the bus keeps is kept by several. -/
theorem Platform.performWrites_keeps {P : Platform → Prop} (h : ∀ p w, P p → P (p.performWrite w)) (ws : List BusWrite) :
    ∀ p, P p → P (Platform.performWrites ws p) := by
  induction ws with
  | nil => exact fun p hp => hp
  | cons w ws ih => exact fun p hp => ih _ (h p w hp)

/-- Before an external fetch the bus controller leaves its buffered writes, or performs them all (R48). -/
theorem Platform.settleWrites_cases (p : Platform) :
    p.settleWrites = p ∨
    (Config.bufwriteBeforeLaterFetch = true ∧
      p.settleWrites = Platform.performWrites p.wbuf { p with wbuf := [] }) := by
  unfold Platform.settleWrites
  split
  · exact .inl rfl
  · next w rest h =>
    split
    · next hb => exact .inr ⟨hb, by rw [h]⟩
    · exact .inl rfl

/-- What settling keeps: whatever emptying the write buffer and operand writes keep. -/
theorem Platform.settleWrites_keeps {P : Platform → Prop} (hempty : ∀ p, P p → P { p with wbuf := [] })
    (h : ∀ p w, P p → P (p.performWrite w)) (p : Platform) (hp : P p) : P p.settleWrites := by
  obtain e | ⟨-, e⟩ := p.settleWrites_cases
  · rw [e]; exact hp
  · rw [e]; exact Platform.performWrites_keeps h _ _ (hempty _ hp)

/-- What performing the buffered writes to an operand's bytes keeps: whatever dropping buffered writes and operand writes
keep. -/
theorem Platform.performOverlapping_keeps {P : Platform → Prop} (hdrop : ∀ p ws, P p → P { p with wbuf := ws })
    (h : ∀ p w, P p → P (p.performWrite w)) (p : Platform) (a : Long) (size : RefSize) (hp : P p) :
    P (p.performOverlapping a size) :=
  Platform.performWrites_keeps h _ _ (hdrop _ _ hp)

/-- With no buffered write to the operand's bytes nothing is performed. -/
@[simp] theorem Platform.performOverlapping_none (p : Platform) (a : Long) (size : RefSize)
    (h : ∀ w ∈ p.wbuf, w.overlaps a size = false) : p.performOverlapping a size = p := by
  have e1 : p.wbuf.filter (·.overlaps a size) = [] := by
    simpa [List.filter_eq_nil_iff] using h
  have e2 : (p.wbuf.filter fun w => !w.overlaps a size) = p.wbuf := by
    simpa [List.filter_eq_self] using h
  simp [Platform.performOverlapping, e1, e2, Platform.performWrites]

/-- An operand write on the bus leaves the write buffer. -/
@[simp] theorem Platform.performWrite_wbuf (p : Platform) (w : BusWrite) : (p.performWrite w).wbuf = p.wbuf := by
  obtain ⟨-, e⟩ | ⟨-, e⟩ := p.performWrite_cases w <;> rw [e]
  simp

/-- Several operand writes on the bus leave the write buffer. -/
@[simp] theorem Platform.performWrites_wbuf (ws : List BusWrite) (p : Platform) :
    (Platform.performWrites ws p).wbuf = p.wbuf :=
  Platform.performWrites_keeps (P := fun q => q.wbuf = p.wbuf) (fun _ _ h => by simpa using h) ws p rfl

/-- The buffered writes that stay are those to no byte of the operand. -/
@[simp] theorem Platform.performOverlapping_wbuf (p : Platform) (a : Long) (size : RefSize) :
    (p.performOverlapping a size).wbuf = p.wbuf.filter fun w => !w.overlaps a size := by
  simp [Platform.performOverlapping]

@[simp] theorem Platform.performOverlapping_sram (p : Platform) (a : Long) (size : RefSize) :
    (p.performOverlapping a size).sram = p.sram := by
  refine Platform.performOverlapping_keeps (P := fun q => q.sram = p.sram) (fun _ _ h => h) (fun q w h => ?_) p a size rfl
  obtain ⟨-, e⟩ | ⟨-, e⟩ := q.performWrite_cases w <;> rw [e] <;> simpa using h

@[simp] theorem Platform.performOverlapping_sramMap (p : Platform) (a : Long) (size : RefSize) :
    (p.performOverlapping a size).sramMap = p.sramMap := by
  refine Platform.performOverlapping_keeps (P := fun q => q.sramMap = p.sramMap) (fun _ _ h => h) (fun q w h => ?_) p a
    size rfl
  obtain ⟨-, e⟩ | ⟨-, e⟩ := q.performWrite_cases w <;> rw [e] <;> simpa using h

@[simp] theorem Platform.performOverlapping_busErrors (p : Platform) (a : Long) (size : RefSize) :
    (p.performOverlapping a size).busErrors = p.busErrors := by
  refine Platform.performOverlapping_keeps (P := fun q => q.busErrors = p.busErrors) (fun _ _ h => h) (fun q w h => ?_) p a
    size rfl
  obtain ⟨-, e⟩ | ⟨-, e⟩ := q.performWrite_cases w <;> rw [e] <;> simpa using h

@[simp] theorem Platform.performOverlapping_devices (p : Platform) (a : Long) (size : RefSize) :
    (p.performOverlapping a size).devices = p.devices := by
  refine Platform.performOverlapping_keeps (P := fun q => q.devices = p.devices) (fun _ _ h => h) (fun q w h => ?_) p a
    size rfl
  obtain ⟨-, e⟩ | ⟨-, e⟩ := q.performWrite_cases w <;> rw [e] <;> simpa using h

@[simp] theorem Platform.performOverlapping_bdm (p : Platform) (a : Long) (size : RefSize) :
    (p.performOverlapping a size).bdm = p.bdm := by
  refine Platform.performOverlapping_keeps (P := fun q => q.bdm = p.bdm) (fun _ _ h => h) (fun q w h => ?_) p a size rfl
  obtain ⟨-, e⟩ | ⟨-, e⟩ := q.performWrite_cases w <;> rw [e] <;> simpa using h

/-- Performing the buffered writes to an operand's bytes keeps memory in canonical form. -/
theorem Platform.performOverlapping_wf {p : Platform} (a : Long) (size : RefSize) (h : Memory.wf p.mem = true) :
    Memory.wf (p.performOverlapping a size).mem = true := by
  refine Platform.performOverlapping_keeps (P := fun q => Memory.wf q.mem = true) (fun _ _ h => h) (fun q w h => ?_) p a
    size h
  obtain ⟨-, e⟩ | ⟨-, e⟩ := q.performWrite_cases w <;> rw [e]
  · exact h
  · exact Platform.store_wf h

/-- An operand write to none of an operand's bytes leaves what is read there (R48 (a)). -/
theorem Platform.performWrite_mem_disjoint {p : Platform} {w : BusWrite} {a : Long} {size : RefSize}
    (hw : Memory.wf p.mem = true) (h : w.overlaps a size = false) :
    Memory.readSized (p.performWrite w).mem a size = Memory.readSized p.mem a size := by
  obtain ⟨-, e⟩ | ⟨-, e⟩ := p.performWrite_cases w <;> rw [e]
  obtain ⟨-, e⟩ | ⟨-, e⟩ := (p.access (.operandWrite w.addr w.size)).store_cases w.addr w.size w.value <;> rw [e]
  · rfl
  · refine Memory.readSized_writeSized_disjoint hw fun b hb hb' => ?_
    simp only [BusWrite.overlaps, List.any_eq_false, List.contains_iff_mem] at h
    exact h b hb' hb

/-- Draining (R75): nothing, or the k-th buffered write leaves the buffer and is performed. -/
theorem Platform.drainWrite_cases (p : Platform) (k : Nat) :
    (p.wbuf[k]? = none ∧ p.drainWrite k = p) ∨
    ∃ w, p.wbuf[k]? = some w ∧ p.drainWrite k = { p with wbuf := p.wbuf.eraseIdx k }.performWrite w := by
  unfold Platform.drainWrite
  cases h : p.wbuf[k]? with
  | none => exact .inl ⟨rfl, rfl⟩
  | some w => exact .inr ⟨w, rfl, rfl⟩

@[simp] theorem Platform.settleWrites_sram (p : Platform) : p.settleWrites.sram = p.sram := by
  refine Platform.settleWrites_keeps (P := fun q => q.sram = p.sram) (fun _ h => h) (fun q w h => ?_) p rfl
  obtain ⟨-, e⟩ | ⟨-, e⟩ := q.performWrite_cases w <;> rw [e] <;> simpa using h

@[simp] theorem Platform.settleWrites_sramMap (p : Platform) : p.settleWrites.sramMap = p.sramMap := by
  refine Platform.settleWrites_keeps (P := fun q => q.sramMap = p.sramMap) (fun _ h => h) (fun q w h => ?_) p rfl
  obtain ⟨-, e⟩ | ⟨-, e⟩ := q.performWrite_cases w <;> rw [e] <;> simpa using h

@[simp] theorem Platform.settleWrites_busErrors (p : Platform) : p.settleWrites.busErrors = p.busErrors := by
  refine Platform.settleWrites_keeps (P := fun q => q.busErrors = p.busErrors) (fun _ h => h) (fun q w h => ?_) p rfl
  obtain ⟨-, e⟩ | ⟨-, e⟩ := q.performWrite_cases w <;> rw [e] <;> simpa using h

@[simp] theorem Platform.settleWrites_devices (p : Platform) : p.settleWrites.devices = p.devices := by
  refine Platform.settleWrites_keeps (P := fun q => q.devices = p.devices) (fun _ h => h) (fun q w h => ?_) p rfl
  obtain ⟨-, e⟩ | ⟨-, e⟩ := q.performWrite_cases w <;> rw [e] <;> simpa using h

@[simp] theorem Platform.settleWrites_bdm (p : Platform) : p.settleWrites.bdm = p.bdm := by
  refine Platform.settleWrites_keeps (P := fun q => q.bdm = p.bdm) (fun _ h => h) (fun q w h => ?_) p rfl
  obtain ⟨-, e⟩ | ⟨-, e⟩ := q.performWrite_cases w <;> rw [e] <;> simpa using h

/-- Settling keeps memory in canonical form. -/
theorem Platform.settleWrites_wf (p : Platform) (h : Memory.wf p.mem = true) : Memory.wf p.settleWrites.mem = true := by
  refine Platform.settleWrites_keeps (P := fun q => Memory.wf q.mem = true) (fun _ h => h) (fun q w h => ?_) p h
  obtain ⟨-, e⟩ | ⟨-, e⟩ := q.performWrite_cases w <;> rw [e]
  · exact h
  · exact Platform.store_wf h

/-! ### The line-fill engine -/

/-- The line-fill engine (R92, R133): idle; a bus error ends the burst; or the first pending longword arrives. -/
theorem State.fillStep_cases (s : State) :
    (s.cache.fb.pending = [] ∧ s.fillStep = s) ∨
    ∃ k rest, s.cache.fb.pending = k :: rest ∧
      ((s.plat.busErrorAt (lineLong s.cache.fb.addr k) = true ∧ s.fillStep =
          { s with plat := s.plat.access (.beat (lineLong s.cache.fb.addr k)),
                   cache := { s.cache with fb := { s.cache.fb with pending := [] } } }) ∨
       (s.plat.busErrorAt (lineLong s.cache.fb.addr k) = false ∧ s.fillStep =
          { s with plat := (s.plat.access (.beat (lineLong s.cache.fb.addr k))).touch (lineLong s.cache.fb.addr k),
                   cache := { s.cache with
                     fb := { (s.cache.fb.arrive k (s.plat.externalRead (lineLong s.cache.fb.addr k) .longword)) with
                             pending := rest } } })) := by
  unfold State.fillStep
  cases hp : s.cache.fb.pending with
  | nil => exact .inl ⟨rfl, rfl⟩
  | cons k rest =>
    refine .inr ⟨k, rest, rfl, ?_⟩
    cases hb : s.plat.busErrorAt (lineLong s.cache.fb.addr k)
    · exact .inr ⟨rfl, by simp [hb]⟩
    · exact .inl ⟨rfl, by simp [hb]⟩

/-! ### Operand references -/

/-- An operand read (R42, R75): the SRAM module's data; a bus error; or what the external bus delivers. -/
theorem State.operandRead_cases (s : State) (r : Ref) :
    (s.plat.sramMaps r = true ∧ s.operandRead r = (.operand (Memory.readSized s.plat.sram r.addr r.size), s)) ∨
    (s.plat.sramMaps r = false ∧ s.plat.busErrorAt r.addr = true ∧ s.operandRead r =
      (.busError, { s with plat := s.plat.access (.operandRead r.addr r.size) })) ∨
    (s.plat.sramMaps r = false ∧ s.plat.busErrorAt r.addr = false ∧ s.operandRead r =
      (.operand (s.plat.externalRead r.addr r.size),
        { s with plat := (s.plat.access (.operandRead r.addr r.size)).touch r.addr })) := by
  unfold State.operandRead
  cases hm : s.plat.sramMaps r
  · cases hb : s.plat.busErrorAt r.addr
    · exact .inr (.inr ⟨rfl, rfl, by simp⟩)
    · exact .inr (.inl ⟨rfl, rfl, by simp⟩)
  · exact .inl ⟨rfl, by simp⟩

/-- An operand write (R72, R73, R75, R76, R130, R131): into the SRAM module; a protection error; into the write buffer; or
onto the bus. -/
theorem State.operandWrite_cases (s : State) (r : Ref) (v : Long) :
    (s.plat.sramMaps r = true ∧ s.operandWrite r v =
      (.done, { s with plat := { s.plat with sram := Memory.writeSized s.plat.sram r.addr r.size v } })) ∨
    (s.plat.sramMaps r = false ∧ (s.cache.effAttr r).wp = true ∧ s.operandWrite r v =
      (.accessError, { s with plat := s.plat.addError { src := r.src, cause := .writeProtect } })) ∨
    (s.plat.sramMaps r = false ∧ (s.cache.effAttr r).wp = false ∧ (s.cache.effAttr r).bufwrite = true ∧
      s.operandWrite r v = (.done, { s with plat := { s.plat with
        wbuf := s.plat.wbuf ++ [{ addr := r.addr, size := r.size, value := v, src := r.src }] } })) ∨
    (s.plat.sramMaps r = false ∧ (s.cache.effAttr r).wp = false ∧ (s.cache.effAttr r).bufwrite = false ∧
      s.operandWrite r v = (if s.plat.busErrorAt r.addr then .accessError else .done,
        { s with plat := (s.plat.performOverlapping r.addr r.size).performWrite { addr := r.addr, size := r.size, value := v, src := r.src } })) := by
  unfold State.operandWrite
  cases hm : s.plat.sramMaps r
  · cases hw : (s.cache.effAttr r).wp
    · cases hb : (s.cache.effAttr r).bufwrite
      · refine .inr (.inr (.inr ⟨rfl, rfl, rfl, ?_⟩))
        simp [hw, hb]
      · exact .inr (.inr (.inl ⟨rfl, rfl, rfl, by simp [hw, hb]⟩))
    · exact .inr (.inl ⟨rfl, rfl, by simp [hw]⟩)
  · exact .inl ⟨rfl, by simp⟩

/-- A waiting access error is reported (R131), or there is none. -/
theorem State.deliverError_cases (s : State) (k : Nat) :
    (s.plat.errors[k]? = none ∧ s.deliverError k = s) ∨
    ∃ e, s.plat.errors[k]? = some e ∧ s.deliverError k =
      { s with plat := { s.plat with errors := s.plat.errors.eraseIdx k } }.takeException .accessError := by
  unfold State.deliverError
  cases h : s.plat.errors[k]? with
  | none => exact .inl ⟨rfl, rfl⟩
  | some e => exact .inr ⟨e, rfl, rfl⟩

/-! ### The instructions -/

/-- A privileged instruction (R123, R132): its effect, or the privilege violation. -/
theorem privileged_cases (s : State) (run : State → Host.Outcome State Fault Refusal) :
    (s.supervisor = true ∧ privileged s run = run s) ∨
    (s.supervisor = false ∧ privileged s run = .next (s.takeException .privilegeViolation)) := by
  unfold privileged
  cases s.supervisor <;> simp

/-- A privileged instruction, when it answers a next state. -/
theorem privileged_next {s t : State} {run : State → Host.Outcome State Fault Refusal} (h : privileged s run = .next t) :
    (s.supervisor = true ∧ run s = .next t) ∨ (s.supervisor = false ∧ t = s.takeException .privilegeViolation) := by
  obtain ⟨hs, e⟩ | ⟨hs, e⟩ := privileged_cases s run <;> rw [e] at h
  · exact .inl ⟨hs, h⟩
  · simp only [Host.Outcome.next.injEq] at h
    exact .inr ⟨hs, h.symm⟩

/-- MOVEC, when it answers a next state (R120 to R123). -/
theorem movec_next {rc : CtrlReg} {ry : Reg} {s t : State} (h : movec rc ry s = .next t) :
    (s.supervisor = false ∧ t = s.takeException .privilegeViolation) ∨
    ∃ v, s.supervisor = true ∧ s.core.readReg ry = some v ∧ t = (s.writeCtrl rc v).advance 2 := by
  obtain ⟨hs, h⟩ | h := privileged_next h
  · cases hr : s.core.readReg ry with
    | none => simp [hr] at h
    | some v =>
      simp only [hr, Host.Outcome.next.injEq] at h
      exact .inr ⟨v, hs, rfl, h.symm⟩
  · exact .inl h

/-- CPUSHL, when it answers a next state (R113, R114, R132). -/
theorem execCpushl_next {ax : Nat} {s t : State} (h : execCpushl ax s = .next t) :
    (s.supervisor = false ∧ t = s.takeException .privilegeViolation) ∨
    ∃ v, s.supervisor = true ∧ s.core.readReg (.a ax) = some v ∧ t = (s.pushLine v).advance 1 := by
  obtain ⟨hs, h⟩ | h := privileged_next h
  · cases hr : s.core.readReg (.a ax) with
    | none => simp [hr] at h
    | some v =>
      simp only [hr, Host.Outcome.next.injEq] at h
      exact .inr ⟨v, hs, rfl, h.symm⟩
  · exact .inl h

/-- Any instruction, when it answers a next state: the privilege violation, a register write, or an entry invalidated. -/
theorem exec_next {i : Instr} {s t : State} (h : exec i s = .next t) :
    (s.supervisor = false ∧ t = s.takeException .privilegeViolation) ∨
    (∃ rc v, s.supervisor = true ∧ t = (s.writeCtrl rc v).advance 2) ∨
    (∃ v, s.supervisor = true ∧ t = (s.pushLine v).advance 1) := by
  cases i with
  | movecCacr ry =>
    obtain h | ⟨v, h1, -, h2⟩ := movec_next (rc := .cacr) h
    · exact .inl h
    · exact .inr (.inl ⟨_, v, h1, h2⟩)
  | movecAcr0 ry =>
    obtain h | ⟨v, h1, -, h2⟩ := movec_next (rc := .acr0) h
    · exact .inl h
    · exact .inr (.inl ⟨_, v, h1, h2⟩)
  | movecAcr1 ry =>
    obtain h | ⟨v, h1, -, h2⟩ := movec_next (rc := .acr1) h
    · exact .inl h
    · exact .inr (.inl ⟨_, v, h1, h2⟩)
  | cpushl ax =>
    obtain h | ⟨v, h1, -, h2⟩ := execCpushl_next h
    · exact .inl h
    · exact .inr (.inr ⟨v, h1, h2⟩)

/-! ### The core's instruction stream -/

/-- A fetch of the core's instruction stream, when it answers a next state: one fetch, whose words join the stream. -/
theorem State.fetchAhead_next {s t : State} (h : s.fetchAhead = .next t) :
    ∃ f, s.fetch (s.core.fetchRef s.core.streamEnd) = (f, (s.fetch (s.core.fetchRef s.core.streamEnd)).2) ∧
      f ≠ .busError ∧
      t = (s.fetch (s.core.fetchRef s.core.streamEnd)).2.appendWords (f.halves s.core.streamEnd) := by
  unfold State.fetchAhead at h
  simp only at h
  split at h
  · cases h
  · generalize s.fetch (s.core.fetchRef s.core.streamEnd) = o at h ⊢
    obtain ⟨f, u⟩ := o
    cases f with
    | longword v => exact ⟨_, rfl, by simp, by simpa using h.symm⟩
    | word w => exact ⟨_, rfl, by simp, by simpa using h.symm⟩
    | busError => cases h

/-- What a fetch and words joining the stream keep, fetching enough words keeps. -/
theorem State.ensureWords_keeps {P : State → Prop} (hfetch : ∀ s r, P s → P (s.fetch r).2)
    (happend : ∀ s ws, P s → P (s.appendWords ws)) (n fuel : Nat) :
    ∀ s t, P s → State.ensureWords n fuel s = .next t → P t := by
  induction fuel with
  | zero =>
    intro s t hs h
    simp only [State.ensureWords, Host.Outcome.next.injEq] at h
    exact h ▸ hs
  | succ fuel ih =>
    intro s t hs h
    simp only [State.ensureWords] at h
    split at h
    · simp only [Host.Outcome.next.injEq] at h
      exact h ▸ hs
    · split at h
      · next u hu =>
        obtain ⟨f, -, -, rfl⟩ := State.fetchAhead_next hu
        exact ih _ _ (happend _ _ (hfetch _ _ hs)) h
      · cases h
      · cases h

theorem State.fetchInstruction_keeps {P : State → Prop} (hfetch : ∀ s r, P s → P (s.fetch r).2)
    (happend : ∀ s ws, P s → P (s.appendWords ws)) {s t : State} (hs : P s) (h : s.fetchInstruction = .next t) : P t := by
  unfold State.fetchInstruction at h
  split at h
  · next u hu =>
    exact State.ensureWords_keeps hfetch happend _ _ _ _ (State.ensureWords_keeps hfetch happend _ _ _ _ hs hu) h
  · cases h
  · cases h

/-- The core's instruction step, when it answers a next state: its words were fetched, decoded and executed. -/
theorem State.instructionStep_next {s t : State} (h : s.instructionStep = .next t) :
    ∃ u i n, s.fetchInstruction = .next u ∧ decodeWords u.core.prefetch = .instr i n ∧ exec i u = .next t := by
  unfold State.instructionStep at h
  split at h
  · next u hu =>
    unfold State.runHeld at h
    split at h
    · next i n hd => exact ⟨u, i, n, hu, hd, h⟩
    · cases h
  · cases h
  · cases h

/-- An instruction of the core's own, when it answers a next state: its words were fetched and passed. -/
theorem State.coreInstruction_next {s t : State} {n : Nat} (h : s.coreInstruction n = .next t) :
    ∃ u, State.ensureWords n n s = .next u ∧ t = u.advance n := by
  unfold State.coreInstruction at h
  split at h
  · next u hu => exact ⟨u, hu, by simpa using h.symm⟩
  · cases h
  · cases h

/-- With enough words held none is fetched. -/
theorem State.ensureWords_held {n : Nat} {s : State} (h : n ≤ s.core.prefetch.length) (fuel : Nat) :
    State.ensureWords n fuel s = .next s := by
  cases fuel <;> simp [State.ensureWords, h]

end Sys2Proof.Machine
end

