-- ==== Sys2Proof/Laws/PerInstr.lean ====
section
/-! SUPPORT. Statements made per instruction: how many words an encoding has (R65). -/

namespace Sys2Proof.Laws

/-- An instruction is encoded in as many words as the decoder says it has, and what it encodes to begins as its length
needs: a first word that tells the length alone (R65). -/
def EncodeLength.Statement (i : Instr) : Prop :=
  (encode i).length = i.words ∧ (i.words = 2 ↔ (encode i).head? = some movecOpcode)

/-- MOVEC Ry,CACR has two words. -/
theorem EncodeLength.movecCacr (ry : Reg) : EncodeLength.Statement (.movecCacr ry) := ⟨rfl, by simp [encode, Instr.words]⟩

/-- MOVEC Ry,ACR0 has two words. -/
theorem EncodeLength.movecAcr0 (ry : Reg) : EncodeLength.Statement (.movecAcr0 ry) := ⟨rfl, by simp [encode, Instr.words]⟩

/-- MOVEC Ry,ACR1 has two words. -/
theorem EncodeLength.movecAcr1 (ry : Reg) : EncodeLength.Statement (.movecAcr1 ry) := ⟨rfl, by simp [encode, Instr.words]⟩

/-- CPUSHL has one word. -/
theorem EncodeLength.cpushl (ax : Nat) : EncodeLength.Statement (.cpushl ax) := by
  refine ⟨rfl, by simp [Instr.words], fun h => ?_⟩
  have h8 : ax % 8 < 8 := Nat.mod_lt _ (by decide)
  have : ∀ n : Nat, n < 8 → (0xF4E8#16 ||| BitVec.ofNat 16 n) ≠ movecOpcode := by decide
  simp only [encode, List.head?_cons, Option.some.injEq] at h
  exact absurd h (this _ h8)

end Sys2Proof.Laws
end

