-- ==== Sys2Proof/Tests/Slice0.lean ====
section
/-! SUPPORT. The model's own tests, each with its source in the spec, and for every statement with hypotheses a concrete
state that meets them all. -/

namespace Sys2Proof.Tests

open Sys2Proof Sys2Proof.Machine

/-! ### WellFormed refuses what the encodings cannot write (R61, R62: register numbers 0 to 7) -/

theorem test_wf_cacr_d8 : (Instr.movecCacr (.d 8)).wf = false := by decide
theorem test_wf_cacr_a8 : (Instr.movecCacr (.a 8)).wf = false := by decide
theorem test_wf_acr0_d8 : (Instr.movecAcr0 (.d 8)).wf = false := by decide
theorem test_wf_acr0_a8 : (Instr.movecAcr0 (.a 8)).wf = false := by decide
theorem test_wf_acr1_d8 : (Instr.movecAcr1 (.d 8)).wf = false := by decide
theorem test_wf_acr1_a8 : (Instr.movecAcr1 (.a 8)).wf = false := by decide
theorem test_wf_cpushl_8 : (Instr.cpushl 8).wf = false := by decide
theorem test_wf_accepts : (Instr.movecCacr (.d 7)).wf && (Instr.movecAcr0 (.a 0)).wf && (Instr.movecAcr1 (.a 7)).wf &&
    (Instr.cpushl 7).wf = true := by decide

/-! ### Decoding: words written out bit by bit from the field tables of R61 and R62 -/

/-- `movec d0,CACR` of programs P1 and P4: 0100 1110 0111 1011, then 0 000 0000 0000 0010. -/
theorem test_decode_cacr : decodeWords [0b0100111001111011#16, 0b0000000000000010#16] = .instr (.movecCacr (.d 0)) 2 := by
  decide
/-- `movec a5,ACR0`: A/D = 1, register 101, Rc $004. -/
theorem test_decode_acr0 : decodeWords [0b0100111001111011#16, 0b1101000000000100#16] = .instr (.movecAcr0 (.a 5)) 2 := by
  decide
/-- `movec d3,ACR1`: A/D = 0, register 011, Rc $005. -/
theorem test_decode_acr1 : decodeWords [0b0100111001111011#16, 0b0011000000000101#16] = .instr (.movecAcr1 (.d 3)) 2 := by
  decide
/-- `cpushl (a0)` of program P2 is F4E8; `cpushl (a6)`: 1111 0100 11 101 110. -/
theorem test_decode_cpushl : decodeWords [0b1111010011101110#16] = .instr (.cpushl 6) 1 := by decide
/-- From bytes, big-endian (P1: 4E7B 0002 at 0x406). -/
theorem test_decode_bytes : decode [0x4E#8, 0x7B#8, 0x00#8, 0x02#8] = .instr (.movecCacr (.d 0)) 2 := by decide
/-- R64: $801 (a control register outside the section) is refused as such. -/
theorem test_decode_other_rc : decodeWords [0x4E7B#16, 0x0801#16] = .rejected (.unassignedRc 0x801#12) := by decide
/-- R62, D16: the cache field 10 is refused. -/
theorem test_decode_cache_field : decodeWords [0xF4A8#16] = .rejected (.cpushlCacheField 0b10#2) := by decide
/-- R61: the opposite direction 0x4E7A is no instruction; nor is 0x4E71 (`nop`) one of the unit. -/
theorem test_decode_outside : decodeWords [0x4E7A#16, 0x0002#16] = .rejected (.outsideUnit 0x4E7A#16) ∧
    decodeWords [0x4E71#16] = .rejected (.outsideUnit 0x4E71#16) := by decide
/-- A MOVEC cut short, and no word at all. -/
theorem test_decode_short : decodeWords [0x4E7B#16] = .rejected .tooShort ∧ decode [0xF4#8] = .rejected .tooShort := by
  decide

/-- The match values of the four rows of spec/opcode_table.json. -/
theorem test_table_rows :
    decodeTableWord 32 0x4E7B0002 = some (.movecCacr (.d 0)) ∧ decodeTableWord 32 0x4E7B0004 = some (.movecAcr0 (.d 0)) ∧
    decodeTableWord 32 0x4E7B0005 = some (.movecAcr1 (.d 0)) ∧ decodeTableWord 16 0xF4E8 = some (.cpushl 0) := by decide
/-- The same MOVEC with its first word in the low bits. -/
theorem test_table_other_order : decodeTableWord 32 0x90044E7B = some (.movecAcr0 (.a 1)) := by decide

/-! ### Small states -/

/-- The state after reset (supervisor mode) with D1 and A1 set. -/
def regs (v : Long) : State :=
  { State.reset with core := { Core.reset with d := Core.reset.d.setIfInBounds 1 v, a := Core.reset.a.setIfInBounds 1 v } }

/-- The same in user mode. -/
def user (v : Long) : State := { regs v with core := { (regs v).core with sr := 0#16 } }

/-- A state with an empty cache past its first invalidation; with CACR 0x80000002 it is V6's start. -/
def warm (cacr : Long) : State := { regs 0x1234#32 with cache := { Cache.reset with cacr := cacr, cold := false } }

/-- Line 0x123 (tag 9, entry 3) in the memory array, all of it the longword `v`. -/
def arrayLine (v : Long) (s : State) : State :=
  { s with cache := { s.cache with
      tag := put s.cache.tag 3#5 9#23
      valid := put s.cache.valid 3#5 true
      data := putLine s.cache.data 3#5 { FillBuffer.reset with data := Vector.replicate 4 v } } }

/-- The line at `line` in the fill buffer, all of it the longword `v`. -/
def bufferLine (line : BitVec 28) (v : Long) (s : State) : State :=
  { s with cache := { s.cache with fb :=
      { addr := line, lwvalid := Vector.replicate 4 true, data := Vector.replicate 4 v, mru := true, cacheable := true,
        pending := [] } } }

/-- Line 0x123 on its way, as after V6 step 1: longword 1 valid, 2, 3 and 0 to come. -/
def burst (v : Long) (s : State) : State :=
  { s with cache := { s.cache with fb :=
      { addr := 0x123#28, lwvalid := put (Vector.replicate 4 false) 1#2 true, data := Vector.replicate 4 v, mru := true,
        cacheable := true, pending := [2#2, 3#2, 0#2] } } }

/-- A supervisor longword fetch by the core. -/
def fetchOf (a : Long) : Ref := { addr := a, kind := .fetch, super := true, src := .core, size := .longword }

/-- A supervisor operand write by the core. -/
def writeOf (a : Long) (size : RefSize) : Ref := { addr := a, kind := .write, super := true, src := .core, size := size }

/-- The state of an outcome, or a given state. -/
def nextOr (d : State) : Host.Outcome State Fault Refusal → State
  | .next t => t
  | .fault _ => d
  | .refused _ => d

/-- An outcome is a next state. -/
def isNext : Host.Outcome State Fault Refusal → Bool
  | .next _ => true
  | .fault _ => false
  | .refused _ => false

theorem isNext_next {o : Host.Outcome State Fault Refusal} (h : isNext o = true) : ∃ t, o = .next t := by
  cases o with
  | next t => exact ⟨t, rfl⟩
  | fault _ => simp [isNext] at h
  | refused _ => simp [isNext] at h

/-! ### The instructions (V5, V14, P4) -/

/-- V5: 0xFFFFFFFF written to CACR leaves 0x98000723 and starts the sequence. -/
theorem test_movecCacr_all_ones :
    let t := nextOr State.reset (exec (.movecCacr (.d 1)) (regs 0xFFFFFFFF#32))
    t.cache.cacr = 0x98000723#32 ∧ t.cache.invLeft = 32 := by decide
/-- P4: in user mode CACR stays and the privilege violation is raised. -/
theorem test_movecCacr_user :
    let t := nextOr State.reset (exec (.movecCacr (.d 1)) (user 0x01000000#32))
    t.cache = (user 0#32).cache ∧ t.raised = [.privilegeViolation] := ⟨rfl, by decide⟩
/-- V5: 0x12345678 written to an ACR leaves 0x12344060. -/
theorem test_movecAcr0_value :
    let t := nextOr State.reset (exec (.movecAcr0 (.a 1)) (regs 0x12345678#32))
    t.cache.acr0 = 0x12344060#32 ∧ t.cache.acr1 = 0#32 := by decide
/-- V5: 0x00001F9B, every reserved bit, leaves 0. -/
theorem test_movecAcr0_reserved :
    (nextOr State.reset (exec (.movecAcr0 (.d 1)) (regs 0x00001F9B#32))).cache.acr0 = 0#32 := by decide
/-- V5: 0xFFFFFFFF written to an ACR leaves 0xFFFFE064. -/
theorem test_movecAcr1_all_ones :
    let t := nextOr State.reset (exec (.movecAcr1 (.d 1)) (regs 0xFFFFFFFF#32))
    t.cache.acr1 = 0xFFFFE064#32 ∧ t.cache.acr0 = 0#32 := by decide
/-- R61: two words, so the pc moves by four. -/
theorem test_movecAcr1_pc : (nextOr State.reset (exec (.movecAcr1 (.d 1)) (regs 0#32))).core.pc = 4#32 := by decide
/-- V14: CPUSHL 0xFFFFF23F invalidates entry 3; the tag is not compared. -/
theorem test_cpushl_entry3 :
    let s := arrayLine 7#32 { warm 0x80000002#32 with core := (regs 0xFFFFF23F#32).core }
    s.cache.validAt 3#5 = true ∧ (nextOr State.reset (exec (.cpushl 1) s)).cache.validAt 3#5 = false := by decide
/-- V14: with CPDI = 1 nothing changes. -/
theorem test_cpushl_cpdi :
    let s := arrayLine 7#32 (warm 0x90000000#32)
    (nextOr State.reset (exec (.cpushl 1) s)).cache = s.cache := rfl

/-! ### The step on a placed word, and the memory after reset -/

/-- Each row runs as the first instruction after reset. -/
theorem test_step_rows :
    (isNext (step (State.reset.withFetchWord 32 0x4E7B0002)) && isNext (step (State.reset.withFetchWord 32 0x4E7B9004)) &&
     isNext (step (State.reset.withFetchWord 32 0x4E7B7005)) && isNext (step (State.reset.withFetchWord 16 0xF4EF))) =
      true := by decide
/-- A word outside the unit is refused by name. -/
theorem test_step_nop : isNext (step (State.reset.withFetchWord 16 0x4E71)) = false := by decide
/-- The memory after reset is in canonical form. -/
theorem test_reset_memory_wf : Memory.wf State.reset.plat.mem = true := by decide

/-! ### Fetches (V6, V8, V10) -/

/-- The longword of an answer. -/
def longOf : Fetched → Option Long
  | .longword v => some v
  | .word _ => none
  | .busError => none

/-- V6 step 1: a miss fetches a line, longword 1 first; 2, 3, 0 are pending. -/
theorem test_v6_miss :
    let t := ((warm 0x80000002#32).fetch (fetchOf 0x1234#32)).2
    t.cache.fb.addr = 0x123#28 ∧ t.cache.fb.pending = [2#2, 3#2, 0#2] := by decide
/-- V6 step 5: the entire buffer goes to entry 3 with tag 9. -/
theorem test_v6_transfer :
    let t := ((bufferLine 0x123#28 7#32 (warm 0x80000002#32)).fetch (fetchOf 0x4560#32)).2
    t.cache.validAt 3#5 = true ∧ t.cache.tagAt 3#5 = 9#23 ∧ t.cache.dataAt 15#7 = 7#32 ∧ t.cache.validAt 22#5 = false := by
  decide
/-- V8 step 3: an array hit at the buffer's location clears the indicator. -/
theorem test_v8_indicator :
    let o := (bufferLine 0x223#28 5#32 (arrayLine 7#32 (warm 0x80000002#32))).fetch (fetchOf 0x1234#32)
    longOf o.1 = some 7#32 ∧ o.2.cache.fb.mru = false := by decide
/-- V10 step 1: a longword-sized miss leaves nothing pending. -/
theorem test_v10_longword :
    let t := ((warm 0x80000000#32).fetch (fetchOf 0x123C#32)).2
    t.cache.fb.pending = [] ∧ t.plat.log = [.fetchLongword 0x123C#32] := by decide

/-! ### Witnesses: for every statement with hypotheses, states that meet them together -/

theorem witness_DecodeOfEncode :
    (Instr.movecCacr (.d 7)).WellFormed ∧ (Instr.movecAcr0 (.a 7)).WellFormed ∧ (Instr.movecAcr1 (.d 0)).WellFormed ∧
    (Instr.cpushl 7).WellFormed := by decide

theorem witness_EncodeOfDecode :
    decodeWords [0x4E7B#16, 0xF002#16, 0#16] = .instr (.movecCacr (.a 7)) 2 ∧
    decodeWords [0xF4EF#16, 0#16] = .instr (.cpushl 7) 1 := by decide

/-- The state with words held ahead. -/
def holding (ws : List Half) (s : State) : State := { s with core := { s.core with prefetch := ws } }

theorem witness_UnassignedRcRefused :
    (holding [0x4E7B#16, 0x0003#16] (regs 0#32)).agenda = [] ∧
    (holding [0x4E7B#16, 0x0003#16] (regs 0#32)).core.prefetch = [0x4E7B#16, 0x0003#16] ∧
    (0x0003#16).extractLsb' 0 12 ≠ 0x002#12 ∧ (0x0003#16).extractLsb' 0 12 ≠ 0x004#12 ∧
    (0x0003#16).extractLsb' 0 12 ≠ 0x005#12 := by decide

/-- The first clause: a CPUSHL pattern with cache field 00 and with 10. -/
theorem witness_OtherWordsRefused_field :
    (holding [0xF428#16] (regs 0#32)).agenda = [] ∧ (holding [0xF428#16] (regs 0#32)).core.prefetch = [0xF428#16] ∧
    0xF428#16 ≠ 0x4E7B#16 ∧ 0xF428#16 &&& 0xFFF8#16 ≠ 0xF4E8#16 ∧ 0xF428#16 &&& 0xFF38#16 = 0xF428#16 ∧
    0xF4AF#16 &&& 0xFFF8#16 ≠ 0xF4E8#16 ∧ 0xF4AF#16 &&& 0xFF38#16 = 0xF428#16 := by decide

/-- The second clause: the words next to MOVEC's and CPUSHL's patterns. -/
theorem witness_OtherWordsRefused_outside :
    (holding [0x4E7A#16] (regs 0#32)).core.prefetch = [0x4E7A#16] ∧ 0x4E7A#16 ≠ 0x4E7B#16 ∧
    0x4E7A#16 &&& 0xFFF8#16 ≠ 0xF4E8#16 ∧ 0x4E7A#16 &&& 0xFF38#16 ≠ 0xF428#16 ∧
    0xF4E7#16 &&& 0xFF38#16 ≠ 0xF428#16 ∧ 0xF4F0#16 &&& 0xFF38#16 ≠ 0xF428#16 := by decide

/-- Both modes, both values of bit 24, and both kinds of register. -/
theorem witness_MovecCacrWrites :
    (regs 0x81000000#32).core.readReg (.d 1) = some 0x81000000#32 ∧ (regs 0x81000000#32).supervisor = true ∧
    (0x81000000#32).getLsbD 24 = true ∧
    (regs 0x80000000#32).core.readReg (.a 1) = some 0x80000000#32 ∧ (regs 0x80000000#32).supervisor = true ∧
    (0x80000000#32).getLsbD 24 = false ∧
    (user 0x81000000#32).core.readReg (.d 1) = some 0x81000000#32 ∧ (user 0x81000000#32).supervisor = false := by decide

theorem witness_MovecAcr0Writes :
    (regs 0xC040#32).core.readReg (.d 1) = some 0xC040#32 ∧ (regs 0xC040#32).supervisor = true ∧
    (user 0xC040#32).core.readReg (.d 1) = some 0xC040#32 ∧ (user 0xC040#32).supervisor = false := by decide

theorem witness_MovecAcr1Writes :
    (regs 0xC004#32).core.readReg (.a 1) = some 0xC004#32 ∧ (regs 0xC004#32).supervisor = true ∧
    (user 0xC004#32).core.readReg (.a 1) = some 0xC004#32 ∧ (user 0xC004#32).supervisor = false := by decide

/-- The state with the Debug module in BDM. -/
def inBdm (s : State) : State := { s with plat := { s.plat with bdm := true } }

theorem witness_BdmReadsStoredValue : (inBdm (regs 0#32)).plat.bdm = true := by decide

/-- CPDI = 0, and CPDI = 1. -/
theorem witness_CpushlInvalidatesEntry :
    ((warm 0x80000002#32).supervisor = true ∧ (warm 0x80000002#32).core.readReg (.a 1) = some 0x1234#32 ∧
      (warm 0x80000002#32).cache.cpdi = false) ∧
    ((warm 0x90000000#32).supervisor = true ∧ (warm 0x90000000#32).core.readReg (.a 1) = some 0x1234#32 ∧
      (warm 0x90000000#32).cache.cpdi = true) := by decide

/-- The two clauses on the buffer: its index is the entry named, and not. -/
theorem witness_CpushlEmptiesItsBuffer :
    let s := bufferLine 0x123#28 5#32 (warm 0x80000002#32)
    let u := bufferLine 0x124#28 5#32 (warm 0x80000002#32)
    s.supervisor = true ∧ s.cache.cpdi = false ∧ s.core.readReg (.a 1) = some 0x1234#32 ∧
    (0x1234#32).extractLsb' 4 5 = s.cache.fb.addr.extractLsb' 0 5 ∧
    u.supervisor = true ∧ u.cache.cpdi = false ∧ u.core.readReg (.a 1) = some 0x1234#32 ∧
    (0x1234#32).extractLsb' 4 5 ≠ u.cache.fb.addr.extractLsb' 0 5 := by decide

theorem witness_UserModePrivilegeViolation : (user 0#32).supervisor = false := by decide

theorem witness_InstructionsFrame :
    (regs 0x1234#32).supervisor = true ∧ (∃ t, exec (.movecCacr (.d 1)) (regs 0x1234#32) = .next t) ∧
    (∃ t, exec (.cpushl 1) (regs 0x1234#32) = .next t) :=
  ⟨by decide, isNext_next (by decide), isNext_next (by decide)⟩

/-- A state with one access error waiting. -/
def waitingError : State :=
  { regs 0#32 with plat := { Platform.reset with errors := [{ src := .core, cause := .writeProtect }] } }

theorem witness_InstructionsPassTheirWords :
    (regs 0x1234#32).supervisor = true ∧ (∃ t, exec (.movecAcr1 (.a 1)) (regs 0x1234#32) = .next t) ∧
    (∃ t, exec (.cpushl 1) (regs 0x1234#32) = .next t) :=
  ⟨by decide, isNext_next (by decide), isNext_next (by decide)⟩

theorem witness_AccessErrorReported : waitingError.plat.errors[0]? = some { src := .core, cause := .writeProtect } := by
  decide

theorem witness_HandlerFetchesAreSupervisor :
    acrMode 0x00008040#32 = 0b00#2 ∧
    (acrMode 0x0000A040#32 ≠ 0b00#2 ∧ acrEnabled 0x0000A040#32 = true ∧
      ((0x00000100#32).extractLsb' 24 8 ^^^ acrBase 0x0000A040#32) &&& ~~~ acrMaskField 0x0000A040#32 = 0#8) ∧
    (acrMode 0x00FFC000#32 ≠ 0b00#2 ∧ acrEnabled 0x00FFC000#32 = true ∧
      ((0xFF000000#32).extractLsb' 24 8 ^^^ acrBase 0x00FFC000#32) &&& ~~~ acrMaskField 0x00FFC000#32 = 0#8) := by decide

theorem witness_DebugModuleActsAsInstructions :
    (regs 0x1234#32).cache = (user 0#32).cache ∧ (regs 0x1234#32).supervisor = true ∧
    (regs 0x1234#32).core.readReg (.d 1) = some 0x1234#32 ∧ (regs 0x1234#32).core.readReg (.a 1) = some 0x1234#32 :=
  ⟨rfl, by decide, by decide, by decide⟩

/-- The first and the last cycle. -/
theorem witness_SequenceClearsEveryEntry :
    Cache.reset.startInvalidate.invLeft = 31 + 1 ∧ { Cache.reset with invLeft := 1 }.invLeft = 0 + 1 := by decide

theorem witness_CinvWriteEmptiesCache :
    (regs 0x81000002#32).supervisor = true ∧ (regs 0x81000002#32).core.readReg (.d 1) = some 0x81000002#32 ∧
    (0x81000002#32).getLsbD 24 = true := by decide

/-- V2: ACR0 matches; only ACR1 matches; neither does. -/
theorem witness_AttributePriority :
    let c := { Cache.reset with acr0 := 0x1000C040#32, acr1 := 0x2000C020#32 }
    acrMatch c.acr0 (fetchOf 0x10FFFFFF#32) = true ∧
    (acrMatch c.acr0 (fetchOf 0x20000000#32) = false ∧ acrMatch c.acr1 (fetchOf 0x20000000#32) = true) ∧
    (acrMatch c.acr0 (fetchOf 0x30000000#32) = false ∧ acrMatch c.acr1 (fetchOf 0x30000000#32) = false) := by decide

/-- A cacheable hit, and a noncacheable one with CEIB = 1. -/
theorem witness_BufferHitAnswers :
    let s := bufferLine 0x123#28 7#32 (warm 0x80000002#32)
    let u := bufferLine 0x123#28 7#32 (warm 0x80000602#32)
    (s.cache.invLeft = 0 ∧ s.cache.cold = false ∧ s.plat.sramMaps (fetchOf 0x123C#32) = false ∧ s.cache.cenb = true ∧
      (s.cache.effAttr (fetchOf 0x123C#32)).cacheable = true ∧
      s.cache.fb.addr = (0x123C#32).extractLsb' 4 28 ∧ s.cache.fb.lwvalidAt ((0x123C#32).extractLsb' 2 2) = true) ∧
    (u.cache.invLeft = 0 ∧ u.cache.cold = false ∧ u.plat.sramMaps (fetchOf 0x1230#32) = false ∧ u.cache.cenb = true ∧
      u.cache.ceib = true ∧ u.cache.fb.addr = (0x1230#32).extractLsb' 4 28 ∧
      u.cache.fb.lwvalidAt ((0x1230#32).extractLsb' 2 2) = true) := by decide

/-- The location is the buffered line's, and is not. -/
theorem witness_ArrayHitAnswers :
    let s := bufferLine 0x223#28 5#32 (arrayLine 7#32 (warm 0x80000002#32))
    let u := arrayLine 7#32 (warm 0x80000002#32)
    (s.cache.invLeft = 0 ∧ s.cache.cold = false ∧ s.plat.sramMaps (fetchOf 0x1234#32) = false ∧ s.cache.cenb = true ∧
      (s.cache.effAttr (fetchOf 0x1234#32)).cacheable = true ∧ s.cache.fb.hit 0x1234#32 = false ∧
      s.cache.fb.onItsWay 0x1234#32 = false ∧ s.cache.validAt ((0x1234#32).extractLsb' 4 5) = true ∧
      s.cache.tagAt ((0x1234#32).extractLsb' 4 5) = (0x1234#32).extractLsb' 9 23 ∧
      (0x1234#32).extractLsb' 4 5 = s.cache.fb.addr.extractLsb' 0 5) ∧
    (u.cache.invLeft = 0 ∧ u.cache.cold = false ∧ u.plat.sramMaps (fetchOf 0x1234#32) = false ∧ u.cache.cenb = true ∧
      (u.cache.effAttr (fetchOf 0x1234#32)).cacheable = true ∧ u.cache.fb.hit 0x1234#32 = false ∧
      u.cache.fb.onItsWay 0x1234#32 = false ∧ u.cache.validAt ((0x1234#32).extractLsb' 4 5) = true ∧
      u.cache.tagAt ((0x1234#32).extractLsb' 4 5) = (0x1234#32).extractLsb' 9 23 ∧
      (0x1234#32).extractLsb' 4 5 ≠ u.cache.fb.addr.extractLsb' 0 5) := by decide

/-- The first and the last longword still to come. -/
theorem witness_AwaitedLongwordAnswers :
    let s := burst 7#32 (warm 0x80000002#32)
    s.cache.invLeft = 0 ∧ s.cache.cold = false ∧ s.plat.sramMaps (fetchOf 0x1238#32) = false ∧ s.cache.cenb = true ∧
    (s.cache.effAttr (fetchOf 0x1238#32)).cacheable = true ∧ s.cache.fb.Sound ∧
    s.cache.fb.addr = (0x1238#32).extractLsb' 4 28 ∧ (0x1238#32).extractLsb' 2 2 ∈ s.cache.fb.pending ∧
    (0x1230#32).extractLsb' 2 2 ∈ s.cache.fb.pending ∧ s.plat.busErrors = [] :=
  ⟨by decide, by decide, by decide, by decide, by decide, ⟨by decide, by decide, by decide⟩, by decide, by decide, by decide,
    by decide⟩

/-- The clause on a device: it answers at the first longword still to come. -/
theorem witness_AwaitedLongwordAnswers_device :
    let s : State := { burst 7#32 (warm 0x80000002#32) with plat := { Platform.reset with devices := [longNumber 0x1238#32] } }
    s.cache.invLeft = 0 ∧ s.cache.cold = false ∧ s.plat.sramMaps (fetchOf 0x1238#32) = false ∧ s.cache.cenb = true ∧
    (s.cache.effAttr (fetchOf 0x1238#32)).cacheable = true ∧ s.cache.fb.Sound ∧
    s.cache.fb.addr = (0x1238#32).extractLsb' 4 28 ∧ (0x1238#32).extractLsb' 2 2 ∈ s.cache.fb.pending ∧
    s.plat.busErrors = [] ∧ s.plat.deviceAt 0x1238#32 = true :=
  ⟨by decide, by decide, by decide, by decide, by decide, ⟨by decide, by decide, by decide⟩, by decide, by decide, by decide,
    by decide⟩

/-- The last row of V4: the wrap stays inside the line. -/
theorem witness_LineFetchOrder :
    let s := bufferLine 0xFFFFFFF#28 7#32 (warm 0x80000002#32)
    s.cache.fb.addr = (0xFFFFFFFC#32).extractLsb' 4 28 ∧ s.plat.wbuf = [] ∧ s.plat.busErrors = [] := by decide

/-- The other form of a miss: noncacheable, with CEIB = 1 and the line in the array; that it misses is a value of the open
constant, of which nothing can be shown. For LineMissLoadsBuffer, LongwordMissLoadsOne and MissWaitsForBurst. -/
theorem witness_miss_noncacheable_over_valid_line :
    let s := arrayLine 5#32 (bufferLine 0x456#28 7#32 (warm 0x80000602#32))
    let t := arrayLine 5#32 (bufferLine 0x456#28 7#32 (warm 0x80000600#32))
    (s.cache.invLeft = 0 ∧ s.cache.cold = false ∧ s.plat.sramMaps (fetchOf 0x1234#32) = false ∧ s.cache.cenb = true ∧
      (s.cache.effAttr (fetchOf 0x1234#32)).cacheable = false ∧ s.cache.ceib = true ∧ s.cache.arrayHit 0x1234#32 = true ∧
      s.cache.fb.hit 0x1234#32 = false ∧ s.cache.fb.onItsWay 0x1234#32 = false ∧ s.cache.fb.pending = [] ∧
      s.plat.wbuf = [] ∧ s.plat.busErrorAt 0x1234#32 = false ∧
      fetchSize (s.cache.cacr.extractLsb' 0 2) (lwOf 0x1234#32) = .line) ∧
    (t.cache.arrayHit 0x123C#32 = true ∧ (t.cache.effAttr (fetchOf 0x123C#32)).cacheable = false ∧ t.cache.ceib = true ∧
      fetchSize (t.cache.cacr.extractLsb' 0 2) (lwOf 0x123C#32) = .longword) := by decide

theorem witness_LineMissLoadsBuffer :
    let s := bufferLine 0x456#28 7#32 (warm 0x80000002#32)
    s.cache.invLeft = 0 ∧ s.cache.cold = false ∧ s.plat.sramMaps (fetchOf 0x123C#32) = false ∧ s.cache.cenb = true ∧
    (s.cache.effAttr (fetchOf 0x123C#32)).cacheable = true ∧ s.cache.fb.hit 0x123C#32 = false ∧ s.cache.fb.pending = [] ∧
    s.cache.arrayHit 0x123C#32 = false ∧ s.plat.wbuf = [] ∧ s.plat.busErrorAt 0x123C#32 = false ∧
    fetchSize (s.cache.cacr.extractLsb' 0 2) (lwOf 0x123C#32) = .line := by decide

theorem witness_LongwordMissLoadsOne :
    let s := bufferLine 0x456#28 7#32 (warm 0x80000001#32)
    s.cache.invLeft = 0 ∧ s.cache.cold = false ∧ s.plat.sramMaps (fetchOf 0x1238#32) = false ∧ s.cache.cenb = true ∧
    (s.cache.effAttr (fetchOf 0x1238#32)).cacheable = true ∧ s.cache.fb.hit 0x1238#32 = false ∧ s.cache.fb.pending = [] ∧
    s.cache.arrayHit 0x1238#32 = false ∧ s.plat.wbuf = [] ∧ s.plat.busErrorAt 0x1238#32 = false ∧
    fetchSize (s.cache.cacr.extractLsb' 0 2) (lwOf 0x1238#32) = .longword := by decide

/-- V15: a miss while a burst runs. -/
theorem witness_MissWaitsForBurst :
    let s := burst 7#32 (warm 0x80000002#32)
    s.cache.fb.pending ≠ [] ∧ s.cache.invLeft = 0 ∧ s.plat.sramMaps (fetchOf 0x4560#32) = false ∧ s.cache.cenb = true ∧
    (s.cache.effAttr (fetchOf 0x4560#32)).cacheable = true ∧ s.cache.fb.hit 0x4560#32 = false ∧
    s.cache.fb.onItsWay 0x4560#32 = false ∧ s.cache.arrayHit 0x4560#32 = false := by decide

theorem witness_FillStepBringsLongword :
    (burst 7#32 (warm 0x80000002#32)).cache.fb.pending = 2#2 :: [3#2, 0#2] ∧
    (burst 7#32 (warm 0x80000002#32)).plat.busErrorAt
      (lineLong (burst 7#32 (warm 0x80000002#32)).cache.fb.addr 2#2) = false := by decide

/-- The state with a bus error at the longword of an address. -/
def failing (a : Long) (s : State) : State := { s with plat := { s.plat with busErrors := [longNumber a] } }

theorem witness_BusErrorValidatesNothing :
    let s := failing 0x1238#32 (burst 7#32 (warm 0x80000002#32))
    s.cache.fb.pending = 2#2 :: [3#2, 0#2] ∧ s.plat.busErrorAt (lineLong s.cache.fb.addr 2#2) = true ∧
    (failing 0x4560#32 (warm 0x80000002#32)).plat.busErrorAt 0x4562#32 = true := by decide

/-- The clause on a fetch past the cache: disabled, a word of it, and noncacheable with CEIB = 0, also with the line in the
array where the open constant is false, of which nothing can be shown. -/
theorem witness_BusErrorValidatesNothing_past :
    let r : Ref := { fetchOf 0x1236#32 with size := .word }
    let s := failing 0x1234#32 (warm 0#32)
    let u := failing 0x1234#32 (warm 0x80000202#32)
    let w := failing 0x1234#32 (arrayLine 7#32 (warm 0x80000202#32))
    (s.cache.invLeft = 0 ∧ s.plat.sramMaps r = false ∧ s.plat.busErrorAt r.addr = true ∧ s.cache.cenb = false) ∧
    (u.cache.invLeft = 0 ∧ u.plat.sramMaps r = false ∧ u.plat.busErrorAt r.addr = true ∧ u.cache.cenb = true ∧
      (u.cache.effAttr r).cacheable = false ∧ u.cache.ceib = false ∧ u.cache.arrayHit r.addr = false) ∧
    (w.plat.busErrorAt r.addr = true ∧ (w.cache.effAttr r).cacheable = false ∧ w.cache.arrayHit r.addr = true) := by decide

/-- The clause on the core's own fetch: of a first word at the pc, and of the second word of a MOVEC. -/
theorem witness_BusErrorValidatesNothing_core :
    let s := failing 0#32 (regs 0#32)
    let u := holding [0x4E7B#16] (failing 0#32 (regs 0#32))
    (s.core.streamEnd.getLsbD 0 = false ∧ (s.fetch (s.core.fetchRef s.core.streamEnd)).1 = .busError ∧ s.agenda = [] ∧
      s.core.prefetch.length < wordsNeeded s.core.prefetch) ∧
    (u.core.streamEnd = 2#32 ∧ u.core.streamEnd.getLsbD 0 = false ∧
      (u.fetch (u.core.fetchRef u.core.streamEnd)).1 = .busError ∧ u.agenda = [] ∧
      u.core.prefetch.length < wordsNeeded u.core.prefetch) := by decide

/-- A transfer; none because a longword is missing; none under freeze because the entry is valid. -/
theorem witness_TransferReplacesOneLine :
    let c := (bufferLine 0x123#28 7#32 (warm 0x80000002#32)).cache
    let d := (burst 7#32 (warm 0x80000002#32)).cache
    let e := (bufferLine 0x223#28 7#32 (arrayLine 5#32 (warm 0x88000002#32))).cache
    ((∀ k, c.fb.lwvalidAt k = true) ∧ c.fb.mru = true ∧ c.fb.cacheable = true ∧
      (c.cfrz = false ∨ c.validAt (c.fb.addr.extractLsb' 0 5) = false)) ∧
    d.fb.lwvalidAt 2#2 = false ∧ (e.cfrz = true ∧ e.validAt (e.fb.addr.extractLsb' 0 5) = true) := by decide

theorem witness_FreezeKeepsValidEntries :
    let s := bufferLine 0x223#28 7#32 (arrayLine 5#32 (warm 0x88000002#32))
    s.cache.invLeft = 0 ∧ s.cache.cfrz = true ∧ s.cache.validAt 3#5 = true := by decide

theorem witness_FetchFrame :
    let s := bufferLine 0x223#28 7#32 (arrayLine 5#32 (warm 0x80000002#32))
    s.cache.invLeft = 0 ∧ s.cache.validAt 3#5 = true ∧ 4#5 ≠ s.cache.fb.addr.extractLsb' 0 5 := by decide

/-- The state with a device at the longword of an address. -/
def withDevice (a : Long) (s : State) : State := { s with plat := { s.plat with devices := [longNumber a] } }

/-- No device; and a device read with the cache disabled. -/
theorem witness_FetchKeepsMemory :
    ((warm 0x80000002#32).plat.wbuf = [] ∧ (warm 0x80000002#32).plat.devices = []) ∧
    let s := withDevice 0x1234#32 (warm 0#32)
    s.cache.invLeft = 0 ∧ s.plat.sramMaps (fetchOf 0x1236#32) = false ∧ s.cache.cenb = false ∧ s.plat.wbuf = [] ∧
    s.plat.busErrorAt 0x1236#32 = false ∧ (fetchOf 0x1236#32).size = .longword ∧ s.plat.deviceAt 0x1236#32 = true ∧
    s.plat.deviceAt 0x1238#32 = false := by decide

/-- A fetch request of size byte is refused; one of size word at the same address is not (R41). -/
theorem test_byte_fetch_refused :
    isNext (State.runMove (warm 0#32) (.fetch { fetchOf 0x1236#32 with size := .byte })) = false ∧
    isNext (State.runMove (warm 0#32) (.fetch { fetchOf 0x1236#32 with size := .word })) = true := by decide

/-- R51: after another master's store the buffer still answers with its copy, and memory has the new byte. -/
theorem test_bus_master_store :
    let t := nextOr State.reset (State.runMove (bufferLine 0x123#28 7#32 (warm 0x80000002#32)) (.busMasterStore 0x1234#32 9#8))
    t.plat.mem = [(0x1234, 9#8)] ∧ longOf (t.fetch (fetchOf 0x1234#32)).1 = some 7#32 := by decide

/-- V12: a word-sized fetch at an odd word address, and a longword-sized one. -/
theorem witness_DisabledCacheGoesToMemory :
    (warm 0#32).cache.invLeft = 0 ∧ (warm 0#32).plat.sramMaps (fetchOf 0x1236#32) = false ∧ (warm 0#32).cache.cenb = false ∧
    (warm 0#32).plat.wbuf = [] ∧ (warm 0#32).plat.busErrorAt 0x1236#32 = false ∧ (0x1236#32).getLsbD 1 = true ∧
    { fetchOf 0x1236#32 with size := .word }.size = .word ∧
    (warm 0#32).plat.sramMaps { fetchOf 0x1236#32 with size := .word } = false ∧ (0x1238#32).getLsbD 1 = false := by decide

/-- V11: block 0 noncacheable, CEIB = 0; without and with the line in the array. The open constant of the second clause is
one of its two values, nothing more can be shown of it. -/
theorem witness_NoncacheableWithoutBursting :
    let s := warm 0x80000202#32
    let u := arrayLine 7#32 (warm 0x80000202#32)
    (s.cache.invLeft = 0 ∧ s.cache.cold = false ∧ s.plat.sramMaps (fetchOf 0x1234#32) = false ∧ s.cache.cenb = true ∧
      (s.cache.effAttr (fetchOf 0x1234#32)).cacheable = false ∧ s.cache.ceib = false ∧ s.plat.wbuf = [] ∧
      s.plat.busErrorAt 0x1234#32 = false ∧ s.cache.arrayHit 0x1234#32 = false) ∧
    (u.cache.invLeft = 0 ∧ u.cache.cold = false ∧ u.plat.sramMaps (fetchOf 0x1234#32) = false ∧ u.cache.cenb = true ∧
      (u.cache.effAttr (fetchOf 0x1234#32)).cacheable = false ∧ u.cache.ceib = false ∧ u.plat.wbuf = [] ∧
      u.plat.busErrorAt 0x1234#32 = false ∧ u.cache.arrayHit 0x1234#32 = true) := by decide

/-- The SRAM module at 0x1000 to 0x13FF (V13). -/
def sramRegion : SramRegion :=
  { lo := 0x1000#32, hi := 0x13FF#32, fetches := true, reads := true, writes := true, user := true, super := true,
    core := true, debug := true, bytes := true, words := true, longwords := true }

/-- The state with that region mapped. -/
def withSram (s : State) : State := { s with plat := { s.plat with sramMap := [sramRegion] } }

/-- The ends of the region, and an operand of it. -/
theorem witness_SramAnswersFirst :
    (withSram (warm 0x80000022#32)).plat.sramMaps (writeOf 0x13FE#32 .word) = true ∧
    Memory.wf (withSram (warm 0x80000022#32)).plat.sram = true ∧
    (withSram (warm 0x80000002#32)).cache.invLeft = 0 ∧
    (withSram (warm 0x80000002#32)).plat.sramMaps (fetchOf 0x1000#32) = true ∧
    (withSram (warm 0x80000002#32)).plat.sramMaps (fetchOf 0x13FF#32) = true ∧
    (withSram (warm 0x80000002#32)).plat.sramMaps (fetchOf 0x1400#32) = false := by decide

/-- Enabled right after reset, without an invalidation (V17). -/
def coldState : State := { State.reset with cache := { Cache.reset with cacr := 0x80000000#32 } }

theorem witness_ColdFetchReturnsFreeValue :
    coldState.cache.invLeft = 0 ∧ coldState.plat.sramMaps (fetchOf 0x1234#32) = false ∧ coldState.cache.cenb = true ∧
    coldState.cache.cold = true ∧ coldState.plat.busErrors = [] := by decide

/-- The clauses on an operand read outside the SRAM module, with WP-like protection in force (DWP = 1). -/
theorem witness_OperandsLeaveCacheAlone :
    let r : Ref := { writeOf 0x1002#32 .word with kind := .read }
    (warm 0x20#32).plat.sramMaps r = false ∧ (warm 0x20#32).plat.busErrorAt r.addr = false ∧
    ((warm 0x20#32).cache.effAttr r).wp = true ∧
    (failing 0x1000#32 (warm 0#32)).plat.sramMaps r = false ∧ (failing 0x1000#32 (warm 0#32)).plat.busErrorAt r.addr = true := by
  decide

/-- V16: DWP = 1. -/
theorem witness_ProtectedWriteEndsInError :
    (warm 0x20#32).plat.sramMaps (writeOf 0x1000#32 .longword) = false ∧
    ((warm 0x20#32).cache.effAttr (writeOf 0x1000#32 .longword)).wp = true := by decide

/-- Each size, at the top of memory. -/
theorem witness_UnbufferedWriteReachesMemory :
    Memory.wf (warm 0#32).plat.mem = true ∧ ∀ size ∈ [RefSize.byte, RefSize.word, RefSize.longword],
      (warm 0#32).plat.sramMaps (writeOf 0xFFFFFFFC#32 size) = false ∧
      ((warm 0#32).cache.effAttr (writeOf 0xFFFFFFFC#32 size)).wp = false ∧
      ((warm 0#32).cache.effAttr (writeOf 0xFFFFFFFC#32 size)).bufwrite = false ∧
      (warm 0#32).plat.busErrorAt 0xFFFFFFFC#32 = false := by decide

/-- The clauses on a bus error and on a device. -/
theorem witness_UnbufferedWriteReachesMemory_other :
    (failing 0x1000#32 (warm 0#32)).plat.sramMaps (writeOf 0x1002#32 .word) = false ∧
    ((failing 0x1000#32 (warm 0#32)).cache.effAttr (writeOf 0x1002#32 .word)).wp = false ∧
    ((failing 0x1000#32 (warm 0#32)).cache.effAttr (writeOf 0x1002#32 .word)).bufwrite = false ∧
    (failing 0x1000#32 (warm 0#32)).plat.busErrorAt 0x1002#32 = true ∧
    (withDevice 0x1000#32 (warm 0#32)).plat.sramMaps (writeOf 0x1003#32 .byte) = false ∧
    ((withDevice 0x1000#32 (warm 0#32)).cache.effAttr (writeOf 0x1003#32 .byte)).wp = false ∧
    ((withDevice 0x1000#32 (warm 0#32)).cache.effAttr (writeOf 0x1003#32 .byte)).bufwrite = false ∧
    (withDevice 0x1000#32 (warm 0#32)).plat.busErrorAt 0x1003#32 = false ∧
    (withDevice 0x1000#32 (warm 0#32)).plat.deviceAt 0x1003#32 = true := by decide

/-- V16: DBWE = 1. -/
theorem witness_BufferedWriteWaits :
    (warm 0x100#32).plat.sramMaps (writeOf 0x1000#32 .word) = false ∧
    ((warm 0x100#32).cache.effAttr (writeOf 0x1000#32 .word)).wp = false ∧
    ((warm 0x100#32).cache.effAttr (writeOf 0x1000#32 .word)).bufwrite = true := by decide

/-- A buffered write to 0x1000. -/
def oneWrite : BusWrite := { addr := 0x1000#32, size := .longword, value := 0x4E714E71#32, src := .core }

/-- The three ways a buffered write is performed: memory, a bus error, a device. -/
theorem witness_BufferedWriteWaits_drain :
    let p : Platform := { Platform.reset with wbuf := [oneWrite] }
    let e : Platform := { p with busErrors := [longNumber 0x1000#32] }
    let d : Platform := { p with devices := [longNumber 0x1000#32] }
    (p.wbuf[0]? = some oneWrite ∧ p.busErrorAt oneWrite.addr = false ∧ p.deviceAt oneWrite.addr = false) ∧
    (e.wbuf[0]? = some oneWrite ∧ e.busErrorAt oneWrite.addr = true) ∧
    (d.wbuf[0]? = some oneWrite ∧ d.busErrorAt oneWrite.addr = false ∧ d.deviceAt oneWrite.addr = true) := by decide

/-- The state with two writes buffered: a longword at 0x1000, and one at 0x1004. -/
def twoWrites : State :=
  { warm 0#32 with plat := { Platform.reset with wbuf := [oneWrite, { oneWrite with addr := 0x1004#32 }] } }

/-- R48 (a): an unbuffered word write to 0x1002 performs the older write to that longword first; the other stays. -/
theorem test_unbuffered_after_buffered :
    let t := (twoWrites.operandWrite (writeOf 0x1002#32 .word) 0xAAAA#32).2
    t.plat.mem = [(0x1000, 0x4E#8), (0x1001, 0x71#8), (0x1002, 0xAA#8), (0x1003, 0xAA#8)] ∧
    t.plat.wbuf = [{ oneWrite with addr := 0x1004#32 }] := by decide

/-- The clause on an unbuffered write after buffered ones, and the write that overlaps and the one that does not. -/
theorem witness_BufferedWriteAgainstFetch_unbuffered :
    let r := writeOf 0x1002#32 .word
    Memory.wf twoWrites.plat.mem = true ∧ twoWrites.plat.sramMaps r = false ∧ (twoWrites.cache.effAttr r).wp = false ∧
    (twoWrites.cache.effAttr r).bufwrite = false ∧ twoWrites.plat.busErrorAt r.addr = false ∧
    twoWrites.plat.deviceAt r.addr = false ∧ r.size.aligned r.addr = true ∧
    RefSize.longword.aligned 0x1000#32 = true ∧
    oneWrite.overlaps 0x1002#32 .word = true ∧ BusWrite.overlaps { oneWrite with addr := 0x1004#32 } 0x1002#32 .word = false := by
  decide

/-- Both clauses' hypothesis is a value of the open constant, of which nothing can be shown. -/
theorem witness_BufferedWriteAgainstFetch :
    let s : State := { warm 0x100#32 with plat := { Platform.reset with wbuf := [oneWrite] } }
    s.plat.wbuf = [oneWrite] ∧ s.plat.busErrorAt oneWrite.addr = false ∧ s.plat.busErrorAt 0x1000#32 = false := by decide

/-- The clause on another master's store, at the top of memory. -/
theorem witness_StoreNotSeenByHit_master :
    Memory.wf (warm 0#32).plat.mem = true ∧ (warm 0#32).plat.busErrorAt 0xFFFFFFFF#32 = false ∧
    (warm 0#32).plat.deviceAt 0xFFFFFFFF#32 = false := by decide

/-- A buffer hit, and an array hit. -/
theorem witness_StoreNotSeenByHit :
    let s := bufferLine 0x123#28 7#32 (warm 0x80000002#32)
    let u := arrayLine 7#32 (warm 0x80000002#32)
    (s.cache.invLeft = 0 ∧ s.cache.cold = false ∧ s.plat.sramMaps (fetchOf 0x1234#32) = false ∧ s.cache.cenb = true ∧
      (s.cache.effAttr (fetchOf 0x1234#32)).cacheable = true ∧ s.cache.fb.hit 0x1234#32 = true) ∧
    (u.cache.invLeft = 0 ∧ u.cache.cold = false ∧ u.plat.sramMaps (fetchOf 0x1234#32) = false ∧ u.cache.cenb = true ∧
      (u.cache.effAttr (fetchOf 0x1234#32)).cacheable = true ∧ u.cache.arrayHit 0x1234#32 = true ∧
      u.cache.fb.onItsWay 0x1234#32 = false) := by decide

/-- A coherent state that holds a line in the array and another one on its way: memory reads zero, and so do the copies. -/
def coherentState : State := burst 0#32 (arrayLine 0#32 (warm 0x80000002#32))

theorem coherentState_coherent : coherentState.cache.Coherent coherentState.plat.mem := ⟨by decide, by decide⟩

theorem coherentState_quiet : coherentState.plat.Quiet := ⟨by decide, by decide, by decide⟩

theorem witness_CoherentFetchReturnsMemory :
    coherentState.cache.Coherent coherentState.plat.mem ∧ coherentState.plat.Quiet ∧ coherentState.booted = true ∧
    coherentState.plat.sramMaps (fetchOf 0x1238#32) = false ∧ coherentState.cache.validAt 3#5 = true ∧
    coherentState.cache.cenb = true :=
  ⟨coherentState_coherent, coherentState_quiet, by decide, by decide, by decide, by decide⟩

/-- The clause on a word: cache disabled, bit 1 set, word sized. -/
theorem witness_CoherentFetchReturnsMemory_word :
    let r : Ref := { fetchOf 0x1236#32 with size := .word }
    (warm 0#32).cache.Coherent (warm 0#32).plat.mem ∧ (warm 0#32).plat.Quiet ∧ (warm 0#32).booted = true ∧
    (warm 0#32).plat.sramMaps r = false ∧ (warm 0#32).cache.cenb = false ∧ r.addr.getLsbD 1 = true ∧ r.size = .word :=
  ⟨⟨by decide, by decide⟩, ⟨by decide, by decide, by decide⟩, by decide, by decide, by decide, by decide, by decide⟩

/-- A coherent state about to bring in a longword, and one about to fetch. -/
theorem witness_StepKeepsCoherence :
    let s := { coherentState with agenda := [.fillStep] }
    s.cache.Coherent s.plat.mem ∧ s.plat.Quiet ∧
    (∀ m rest, s.agenda = m :: rest → m.mayStore s = false) ∧ ∃ t, step s = .next t := by
  refine ⟨coherentState_coherent, coherentState_quiet, fun m rest h => ?_, isNext_next (by decide)⟩
  simp only [List.cons.injEq] at h
  rw [← h.1]
  rfl

/-- Moves that are operand writes and store nothing: into the SRAM module, and write-protected (DWP = 1). -/
theorem witness_StepKeepsCoherence_writes :
    Move.mayStore (withSram (warm 0#32)) (.operandWrite (writeOf 0x1000#32 .word) 7#32) = false ∧
    Move.mayStore (warm 0x20#32) (.operandWrite (writeOf 0x1000#32 .word) 7#32) = false ∧
    Move.mayStore (warm 0#32) (.operandWrite (writeOf 0x1000#32 .word) 7#32) = true := by decide

/-- Both clauses: the write meets its hypotheses, another master's store needs no more. -/
theorem witness_InvalidatingRestoresCoherence :
    coherentState.cache.Coherent coherentState.plat.mem ∧ coherentState.plat.Quiet ∧
    Memory.wf coherentState.plat.mem = true ∧ coherentState.plat.sramMaps (writeOf 0x1234#32 .longword) = false ∧
    (coherentState.cache.effAttr (writeOf 0x1234#32 .longword)).wp = false ∧
    (coherentState.cache.effAttr (writeOf 0x1234#32 .longword)).bufwrite = false ∧
    RefSize.longword.aligned 0x1234#32 = true ∧ coherentState.cache.cpdi = false :=
  ⟨coherentState_coherent, coherentState_quiet, by decide, by decide, by decide, by decide, by decide, by decide⟩

/-- The first clause: `movec d1,ACR0` placed after reset. -/
theorem witness_StepRunsDecodedInstruction :
    let s := State.reset.withFetchWord 32 0x4E7B1004
    s.agenda = [] ∧ s.core.prefetch = [] ∧ s.cache.invLeft = 0 ∧ s.cache.cenb = false ∧ s.plat.sramMap = [] ∧
    s.plat.wbuf = [] ∧ s.plat.busErrors = [] ∧ s.plat.devices = [] ∧ s.core.pc.getLsbD 0 = false ∧
    decodeWords [Memory.readHalf s.plat.mem s.core.pc, Memory.readHalf s.plat.mem (s.core.pc + 2#32)] =
      .instr (.movecAcr0 (.d 1)) 2 := by decide

/-- The second clause: the instruction's words are held. -/
theorem witness_StepRunsDecodedInstruction_held :
    let s := holding [0xF4E9#16, 0x4E71#16] (regs 0#32)
    s.agenda = [] ∧ (Instr.cpushl 1).WellFormed ∧ s.core.prefetch = encode (.cpushl 1) ++ [0x4E71#16] := by decide

/-- `cpushl (a1)` placed where an enabled, empty and booted cache fetches. -/
def cachedStart : State := (warm 0x80000002#32).withFetchWord 16 0xF4E9

theorem witness_CoherentStepRunsMemory :
    cachedStart.agenda = [] ∧ cachedStart.core.prefetch = [] ∧ cachedStart.cache.Coherent cachedStart.plat.mem ∧
    cachedStart.plat.Quiet ∧ cachedStart.booted = true ∧ cachedStart.plat.sramMap = [] ∧
    cachedStart.core.pc.getLsbD 0 = false ∧
    decodeWords [Memory.readHalf cachedStart.plat.mem cachedStart.core.pc,
      Memory.readHalf cachedStart.plat.mem (cachedStart.core.pc + 2#32)] = .instr (.cpushl 1) 1 :=
  ⟨by decide, by decide, ⟨by decide, by decide⟩, ⟨by decide, by decide, by decide⟩, by decide, by decide, by decide,
    by decide⟩

/-- A sound state in the middle of a burst, which steps. -/
theorem witness_StepKeepsSound :
    let s := { coherentState with agenda := [.fillStep] }
    s.Sound ∧ ∃ t, step s = .next t :=
  ⟨⟨⟨by decide, by decide, by decide⟩, ⟨by decide, by decide, by decide⟩, by decide, by decide, by decide⟩,
    isNext_next (by decide)⟩

theorem witness_UserModeKeepsRegisters :
    let s := (user 0x98000723#32).withFetchWord 32 0x4E7B1002
    s.agenda = [] ∧ s.supervisor = false ∧ ∃ t, step s = .next t :=
  ⟨by decide, by decide, isNext_next (by decide)⟩

/-- The other form: the instruction as the agenda's next move. -/
theorem witness_UserModeKeepsRegisters_agenda :
    let s := { (user 0x98000723#32).withFetchWord 32 0x4E7B1002 with agenda := [.instruction, .fillStep] }
    s.agenda = [.instruction, .fillStep] ∧ s.supervisor = false ∧ ∃ t, step s = .next t :=
  ⟨by decide, by decide, isNext_next (by decide)⟩

theorem witness_OnlyWritesChangeRegisters :
    Move.fillStep.mayWriteRegisters = false ∧ ∃ t, State.runMove coherentState .fillStep = .next t :=
  ⟨by decide, isNext_next (by decide)⟩

theorem witness_OnlyFetchesValidateEntries :
    Move.fillStep.fetches = false ∧ ∃ t, State.runMove coherentState .fillStep = .next t ∧ t.cache.validAt 3#5 = true :=
  ⟨by decide, coherentState.fillStep, rfl, by decide⟩

end Sys2Proof.Tests
end

