-- ==== Sys2Proof/Proofs/State.lean ====
section
/-! SUPPORT. The control registers and CPUSHL (10_state.md): what a write leaves, what a read in Background Debug mode shows,
what a hardware reset clears, and which entry CPUSHL invalidates. -/

namespace Sys2Proof.Machine

/-! ### The stored value of a register -/

/-- The implemented bits as the spec writes them (R12, R22, R24, R32). -/
theorem CtrlReg.mask_eq_ite (rc : CtrlReg) : rc.mask = if rc = .cacr then 0x98000723#32 else 0xFFFFE064#32 := by
  cases rc <;> rfl

/-- After a write a register holds the implemented bits of the value written, whatever bit 24 of it starts (R120 to R122). -/
@[simp] theorem Cache.writeCtrl_ctrl (c : Cache) (rc : CtrlReg) (v : Long) : (c.writeCtrl rc v).ctrl rc = v &&& rc.mask := by
  obtain ⟨rfl, hw⟩ | ⟨rfl, hw⟩ | ⟨rfl, hw⟩ := c.writeCtrl_cases rc v <;> rw [hw] <;> rfl

/-- A read right after a write shows what the write stored: the mask is applied twice, to no further effect (R22, R32). -/
theorem Cache.writeCtrl_bdmValue (c : Cache) (rc : CtrlReg) (v : Long) :
    (c.writeCtrl rc v).bdmValue rc = v &&& rc.mask := by
  rw [Cache.bdmValue, Cache.writeCtrl_ctrl, BitVec.and_assoc, BitVec.and_self]

/-- A register read in Background Debug mode replies the stored value and changes nothing else (R126). -/
theorem State.runMove_bdmRead {s : State} (h : s.plat.bdm = true) (rc : CtrlReg) :
    State.runMove s (.bdmRead rc) = .next { s with reply := some (.register (s.cache.bdmValue rc)) } := by
  have hread : s.bdmRead rc = s.cache.bdmValue rc := if_pos h
  rw [← hread]
  rfl

/-! ### Hardware reset (R38) -/

@[simp] theorem Cache.hardwareReset_cacr (c : Cache) (n : Nat) : (c.hardwareReset n).cacr = 0#32 := rfl
@[simp] theorem Cache.hardwareReset_acr0 (c : Cache) (n : Nat) : (c.hardwareReset n).acr0 = 0#32 := rfl
@[simp] theorem Cache.hardwareReset_acr1 (c : Cache) (n : Nat) : (c.hardwareReset n).acr1 = 0#32 := rfl

/-! ### CPUSHL -/

/-- CPUSHL (An) in supervisor mode completes: it pushes the line its operand names and passes one word (R113). -/
theorem exec_cpushl_supervisor {n : Nat} {s : State} {v : Long} (hs : s.supervisor = true)
    (hr : s.core.readReg (.a n) = some v) : exec (.cpushl n) s = .next ((s.pushLine v).advance 1) := by
  have hexec : exec (.cpushl n) s = execCpushl n s := rfl
  rw [hexec, execCpushl]
  obtain ⟨-, hrun⟩ | ⟨hu, -⟩ := privileged_cases s _
  · rw [hrun, hr]
  · rw [hs] at hu
    cases hu

/-- With CPDI = 1 the push does nothing (R14, R114). -/
theorem Cache.pushLine_of_cpdi {c : Cache} (h : c.cpdi = true) (clears : Bool) (v : Long) : c.pushLine clears v = c :=
  if_pos h

/-- With CPDI = 0 the push clears the valid bit of entry `idx(v)` and no other (R14, R113). -/
theorem Cache.pushLine_validAt {c : Cache} (h : c.cpdi = false) (clears : Bool) (v : Long) (i : BitVec 5) :
    (c.pushLine clears v).validAt i = if i = idxOf v then false else c.validAt i := by
  obtain ⟨hc, -⟩ | ⟨-, hpush⟩ := c.pushLine_cases clears v
  · rw [h] at hc
    cases hc
  · rw [hpush, Cache.validAt, look_put, Cache.validAt]
    simp only [eq_comm]

end Sys2Proof.Machine

namespace Sys2Proof.Proofs

open Sys2Proof Sys2Proof.Machine

/-- Settles O10: the push of `exec_cpushl_supervisor`, with CPDI = 0 and with CPDI = 1. -/
theorem cpushlInvalidatesEntry : Obligations.CpushlInvalidatesEntry := by
  unfold Obligations.CpushlInvalidatesEntry
  intro n s v hs hr
  have hexec := exec_cpushl_supervisor hs hr
  refine ⟨fun hcpdi => ⟨_, hexec, fun i => ?_⟩, fun hcpdi => ⟨_, hexec, ?_⟩⟩
  · rw [State.advance_cache, State.pushLine_cache, Cache.pushLine_validAt hcpdi, idxOf]
  · rw [State.advance_cache, State.pushLine_cache, Cache.pushLine_of_cpdi hcpdi]

/-- Settles O9: the stored value, a read of it, and a read right after the write. -/
theorem bdmReadsStoredValue : Obligations.BdmReadsStoredValue := by
  unfold Obligations.BdmReadsStoredValue
  intro s rc v
  rw [← CtrlReg.mask_eq_ite]
  refine ⟨Cache.writeCtrl_ctrl _ _ _, fun hbdm => State.runMove_bdmRead hbdm rc, fun hbdm => ?_⟩
  have hshown : (s.writeCtrl rc v).cache.bdmValue rc = v &&& rc.mask := by
    rw [State.writeCtrl_cache, Cache.writeCtrl_bdmValue]
  rw [State.runMove_bdmRead (by rwa [State.writeCtrl_plat]), hshown]

/-- Settles O51: at power-on by the reset state's own fields, and for every state by what a hardware reset leaves. -/
theorem resetClearsRegisters : Obligations.ResetClearsRegisters := by
  unfold Obligations.ResetClearsRegisters
  refine ⟨⟨rfl, rfl, rfl⟩, fun s => ?_⟩
  simp only [State.hardwareReset_cache, Cache.hardwareReset_cacr, Cache.hardwareReset_acr0, Cache.hardwareReset_acr1,
    and_self]

end Sys2Proof.Proofs
end

/-! SUPPORT. The effective attributes (40_attributes.md): which register gives them, and by which of its bits. -/

namespace Sys2Proof.Machine

/-! ### The bits behind the attributes -/

/-- The attributes of an ACR by bit number: CM (R29), BWE (R30) and WP (R31). -/
theorem acrAttr_eq (acr : Long) :
    acrAttr acr = { cacheable := !acr.getLsbD 6, bufwrite := acr.getLsbD 5, wp := acr.getLsbD 2 } := rfl

/-- The default attributes by bit number of CACR: DCM (R18), DBWE (R19) and DWP (R20). -/
theorem Cache.defaultAttr_eq (c : Cache) :
    c.defaultAttr = { cacheable := !c.cacr.getLsbD 9, bufwrite := c.cacr.getLsbD 8, wp := c.cacr.getLsbD 5 } := rfl

/-! ### The register that gives the attributes (R72) -/

/-- ACR0 comes first, whether ACR1 matches too or not. -/
theorem Cache.effAttr_of_acr0 {c : Cache} {r : Ref} (h0 : acrMatch c.acr0 r = true) : c.effAttr r = acrAttr c.acr0 :=
  if_pos h0

/-- ACR1 comes where ACR0 does not match. -/
theorem Cache.effAttr_of_acr1 {c : Cache} {r : Ref} (h0 : acrMatch c.acr0 r = false) (h1 : acrMatch c.acr1 r = true) :
    c.effAttr r = acrAttr c.acr1 := by
  rw [Cache.effAttr, if_neg (Bool.eq_false_iff.mp h0), if_pos h1]

/-- CACR comes where neither ACR matches. -/
theorem Cache.effAttr_of_no_acr {c : Cache} {r : Ref} (h0 : acrMatch c.acr0 r = false) (h1 : acrMatch c.acr1 r = false) :
    c.effAttr r = c.defaultAttr := by
  rw [Cache.effAttr, if_neg (Bool.eq_false_iff.mp h0), if_neg (Bool.eq_false_iff.mp h1)]

end Sys2Proof.Machine

namespace Sys2Proof.Proofs

open Sys2Proof Sys2Proof.Machine

/-- Settles O23: one case for each register that can give the attributes, ACR0, ACR1 and CACR, then its bits. -/
theorem attributePriority : Obligations.AttributePriority := by
  unfold Obligations.AttributePriority
  refine fun c r => ⟨fun h0 => ?_, fun h0 h1 => ?_, fun h0 h1 => ?_⟩
  · rw [Cache.effAttr_of_acr0 h0, acrAttr_eq]
  · rw [Cache.effAttr_of_acr1 h0 h1, acrAttr_eq]
  · rw [Cache.effAttr_of_no_acr h0 h1, Cache.defaultAttr_eq]

end Sys2Proof.Proofs

/-! SUPPORT. The size of a miss's fetch (R89) and the order of a line fetch (R90): where the longwords of a line lie, and what
a burst without bus errors accesses (41_fetch_linefill.md). -/

namespace Sys2Proof.Machine

/-! ### Longwords of a line -/

/-- The upper half of a line is its longwords 2 and 3. -/
theorem two_le_lw_iff (lw : BitVec 2) : 2#2 ≤ lw ↔ lw = 2#2 ∨ lw = 3#2 := by
  obtain rfl | rfl | rfl | rfl := lw_cases lw <;> decide

/-- Longword `k` of a line lies `4 k` bytes above the line's address. -/
theorem lineLong_lineOf (a : Long) (k : BitVec 2) : lineLong (lineOf a) k = lineBase a + BitVec.ofNat 32 (4 * k.toNat) := by
  have hsep : lineBase a &&& (k.setWidth 32 <<< 2) = 0#32 := by
    ext n hn
    interval_cases n <;> simp [lineBase]
  have hor : lineLong (lineOf a) k = lineBase a ||| (k.setWidth 32 <<< 2) := by
    ext n hn
    interval_cases n <;> simp [lineLong, lineOf, lineBase]
  have hoffset : (k.setWidth 32 <<< 2 : Long) = BitVec.ofNat 32 (4 * k.toNat) := by
    obtain rfl | rfl | rfl | rfl := lw_cases k <;> rfl
  rw [hor, ← BitVec.add_eq_or_of_and_eq_zero _ _ hsep, hoffset]

/-- The longword `j` places after `lw`, wrapping inside the line, as a byte offset (R90). -/
theorem four_mul_toNat_lw_add (lw : BitVec 2) (j : Nat) :
    4 * (lw + BitVec.ofNat 2 j).toNat = (4 * lw.toNat + 4 * j) % 16 := by
  rw [BitVec.toNat_add, BitVec.toNat_ofNat]
  omega

/-- A line's longwords from the critical one on, wrapping: the critical one, then those a line fetch leaves pending (R90). -/
theorem critical_cons_restOfLine (lw : BitVec 2) :
    lw :: restOfLine lw = [0, 1, 2, 3].map fun j => lw + BitVec.ofNat 2 j := by
  obtain rfl | rfl | rfl | rfl := lw_cases lw <;> rfl

/-! ### A line fetch and its burst without bus errors -/

/-- Where the bus reports no errors no access ends in one. -/
theorem Platform.busErrorAt_none {p : Platform} (h : p.busErrors = []) (a : Long) : p.busErrorAt a = false := by
  simp [Platform.busErrorAt, h]

/-- The line fetch itself (R90, R91): the line's access and the critical longword's, which arrives with the rest pending. -/
theorem State.lineFetch_of_no_error {s : State} (h : s.plat.busErrors = []) (a : Long) :
    (s.lineFetch a).2 =
      { s.withFb { (s.cache.fb.arrive (lwOf a) (s.plat.settleWrites.externalRead (longBase a) .longword)) with
          pending := restOfLine (lwOf a) } with
        plat := ((s.plat.settleWrites.access (.fetchLine (lineBase a))).access (.beat (longBase a))).touch a } := by
  have hok : s.plat.settleWrites.busErrorAt a = false := Platform.busErrorAt_none (by simpa using h) a
  simp [State.lineFetch, State.withFb, hok]

/-- One step of the engine (R92): the first pending longword arrives, by one access. -/
theorem State.fillStep_of_no_error {s : State} {k : BitVec 2} {rest : List (BitVec 2)} (hp : s.cache.fb.pending = k :: rest)
    (h : s.plat.busErrors = []) :
    s.fillStep =
      { s.withFb { (s.cache.fb.arrive k (s.plat.externalRead (lineLong s.cache.fb.addr k) .longword)) with
          pending := rest } with
        plat := (s.plat.access (.beat (lineLong s.cache.fb.addr k))).touch (lineLong s.cache.fb.addr k) } := by
  simp [State.fillStep, State.withFb, hp, Platform.busErrorAt_none h]

/-- The engine run to the end of a burst makes one access for each pending longword, in their order (R92). -/
theorem State.fillSteps_log (ks : List (BitVec 2)) : ∀ s : State, s.cache.fb.pending = ks → s.plat.busErrors = [] →
    (State.fillSteps ks.length s).plat.log = s.plat.log ++ ks.map fun k => .beat (lineLong s.cache.fb.addr k) := by
  induction ks with
  | nil => simp [State.fillSteps]
  | cons k ks ih =>
    intro s hp h
    have hstep := State.fillStep_of_no_error hp h
    have hrest := ih s.fillStep (by rw [hstep]; rfl) (by rw [hstep]; simpa using h)
    rw [List.length_cons, State.fillSteps, hrest, hstep]
    simp [State.withFb]

/-- A line fetch with its whole burst: the line's access, then each longword's from the critical one on (R90). -/
theorem State.lineFetch_fillSteps_log {s : State} {a : Long} (haddr : s.cache.fb.addr = lineOf a) (hw : s.plat.wbuf = [])
    (h : s.plat.busErrors = []) :
    (State.fillSteps 3 (s.lineFetch a).2).plat.log = s.plat.log ++ .fetchLine (lineBase a) ::
      (lwOf a :: restOfLine (lwOf a)).map fun k => .beat (lineLong (lineOf a) k) := by
  have hfetch := State.lineFetch_of_no_error h a
  have hburst := State.fillSteps_log (restOfLine (lwOf a)) (s.lineFetch a).2 (by rw [hfetch]; rfl)
    (by rw [hfetch]; simpa using h)
  rw [show 3 = (restOfLine (lwOf a)).length from rfl, hburst, hfetch]
  simp [State.withFb, haddr, hw, longBase_eq]

end Sys2Proof.Machine

namespace Sys2Proof.Proofs

open Sys2Proof Sys2Proof.Machine

/-- Settles O28: the burst's accesses in the order of the longwords, each longword then placed by its offset. -/
theorem lineFetchOrder : Obligations.LineFetchOrder := by
  unfold Obligations.LineFetchOrder
  intro s a haddr hw herr
  have hbeat (j : Nat) : lineLong (lineOf a) (lwOf a + BitVec.ofNat 2 j) =
      lineBase a + BitVec.ofNat 32 ((4 * (lwOf a).toNat + 4 * j) % 16) := by
    rw [lineLong_lineOf, four_mul_toNat_lw_add]
  rw [State.lineFetch_fillSteps_log haddr hw herr, critical_cons_restOfLine, List.map_map]
  simp only [Function.comp_def, hbeat]
  rfl

/-- Settles O27: the model's comparison `2 ≤ lw` names the upper two longwords of a line. -/
theorem fetchSizeTable : Obligations.FetchSizeTable := by
  unfold Obligations.FetchSizeTable
  intro clnf lw
  simp only [fetchSize, two_le_lw_iff]

end Sys2Proof.Proofs

/-! SUPPORT. MOVEC to a control register (43_movec.md): what it answers in each mode, and which of the unit's fields a write to
an ACR replaces. -/

namespace Sys2Proof.Machine

/-! ### MOVEC -/

/-- MOVEC to ACR0 is the common MOVEC with that destination (R121). -/
theorem exec_movecAcr0 (ry : Reg) (s : State) : exec (.movecAcr0 ry) s = movec .acr0 ry s := rfl

/-- MOVEC to ACR1 is the common MOVEC with that destination (R122). -/
theorem exec_movecAcr1 (ry : Reg) (s : State) : exec (.movecAcr1 ry) s = movec .acr1 ry s := rfl

/-- In supervisor mode MOVEC completes: it writes the register and passes two words (R120 to R122). -/
theorem movec_supervisor (rc : CtrlReg) {ry : Reg} {s : State} {v : Long} (hs : s.supervisor = true)
    (hr : s.core.readReg ry = some v) : movec rc ry s = .next ((s.writeCtrl rc v).advance 2) := by
  rw [movec]
  obtain ⟨-, hrun⟩ | ⟨hu, -⟩ := privileged_cases s _
  · rw [hrun, hr]
  · rw [hs] at hu
    cases hu

/-- In user mode MOVEC raises the privilege violation, whatever its operand (R123). -/
theorem movec_user (rc : CtrlReg) (ry : Reg) {s : State} (hs : s.supervisor = false) :
    movec rc ry s = .next (s.takeException .privilegeViolation) := by
  rw [movec]
  obtain ⟨hu, -⟩ | ⟨-, hexc⟩ := privileged_cases s _
  · rw [hs] at hu
    cases hu
  · exact hexc

/-- What MOVEC does to the unit in each mode: the register write, or nothing with the privilege violation raised. -/
theorem movec_writes_unit (rc : CtrlReg) {ry : Reg} {s : State} {v : Long} (hr : s.core.readReg ry = some v) :
    (s.supervisor = true → ∃ t : State, movec rc ry s = .next t ∧ t.cache = s.cache.writeCtrl rc v) ∧
    (s.supervisor = false → ∃ t : State, movec rc ry s = .next t ∧ t.cache = s.cache ∧
      t.raised = s.raised ++ [.privilegeViolation]) := by
  refine ⟨fun hs => ⟨_, movec_supervisor rc hs hr, ?_⟩, fun hs => ⟨_, movec_user rc ry hs, ?_, ?_⟩⟩
  · rw [State.advance_cache, State.writeCtrl_cache]
  · exact State.takeException_cache s _
  · exact State.takeException_raised s _

/-! ### The access control registers -/

/-- A write to ACR0 replaces that register alone, by the implemented bits of the value (R24, R121). -/
theorem Cache.writeCtrl_acr0 (c : Cache) (v : Long) : c.writeCtrl .acr0 v = { c with acr0 := v &&& 0xFFFFE064#32 } := rfl

/-- A write to ACR1 replaces that register alone, by the implemented bits of the value (R24, R122). -/
theorem Cache.writeCtrl_acr1 (c : Cache) (v : Long) : c.writeCtrl .acr1 v = { c with acr1 := v &&& 0xFFFFE064#32 } := rfl

end Sys2Proof.Machine

namespace Sys2Proof.Proofs

open Sys2Proof Sys2Proof.Machine

/-- Settles O7: MOVEC's effect on the unit, with the register write spelled out for ACR0. -/
theorem movecAcr0Writes : Obligations.MovecAcr0Writes := by
  unfold Obligations.MovecAcr0Writes
  intro ry s v hr
  rw [exec_movecAcr0, ← Cache.writeCtrl_acr0]
  exact movec_writes_unit .acr0 hr

/-- Settles O8: MOVEC's effect on the unit, with the register write spelled out for ACR1. -/
theorem movecAcr1Writes : Obligations.MovecAcr1Writes := by
  unfold Obligations.MovecAcr1Writes
  intro ry s v hr
  rw [exec_movecAcr1, ← Cache.writeCtrl_acr1]
  exact movec_writes_unit .acr1 hr

end Sys2Proof.Proofs

/-! SUPPORT. The encoder and the decoder (30_encoding.md): the fields of a MOVEC's second word and of CPUSHL's word, each
field read back from the word that holds it, and the word rebuilt from its fields. -/

namespace Sys2Proof

/-! ### The register field of a MOVEC (R61) -/

/-- The register that bits 15:12 of a MOVEC's second word name. -/
def regOfField (f : BitVec 4) : Reg :=
  if f.getLsbD 3 then .a (f.extractLsb' 0 3).toNat else .d (f.extractLsb' 0 3).toNat

/-- The decoder reads the register from the four bits 15:12 alone. -/
theorem decodeReg_eq (ext : Half) : decodeReg ext = regOfField (ext.extractLsb' 12 4) := by
  have hnum : (ext.extractLsb' 12 4).extractLsb' 0 3 = ext.extractLsb' 12 3 := by
    ext n hn
    interval_cases n <;> simp
  have hkind : (ext.extractLsb' 12 4).getLsbD 3 = ext.getLsbD 15 := by simp
  rw [regOfField, hnum, hkind, decodeReg]

theorem regOfField_wf (f : BitVec 4) : (regOfField f).wf = true := by
  revert f
  decide

theorem encodeReg_regOfField (f : BitVec 4) : encodeReg (regOfField f) = f := by
  revert f
  decide

theorem regOfField_encodeReg {r : Reg} (h : r.wf = true) : regOfField (encodeReg r) = r := by
  cases r with
  | d n =>
    have hn : n < 8 := of_decide_eq_true h
    interval_cases n <;> rfl
  | a n =>
    have hn : n < 8 := of_decide_eq_true h
    interval_cases n <;> rfl

/-! ### The second word of a MOVEC (R61) -/

theorem encodeMovecExt_reg (ry : Reg) (rc : BitVec 12) : (encodeMovecExt ry rc).extractLsb' 12 4 = encodeReg ry := by
  ext n hn
  interval_cases n <;> simp [encodeMovecExt]

theorem encodeMovecExt_rc (ry : Reg) (rc : BitVec 12) : (encodeMovecExt ry rc).extractLsb' 0 12 = rc := by
  ext n hn
  interval_cases n <;> simp [encodeMovecExt]

/-- The second word is its register field followed by its control register number. -/
theorem encodeMovecExt_decodeReg (ext : Half) : encodeMovecExt (decodeReg ext) (ext.extractLsb' 0 12) = ext := by
  rw [decodeReg_eq, encodeMovecExt, encodeReg_regOfField]
  ext n hn
  interval_cases n <;> simp

theorem decodeReg_encodeMovecExt {ry : Reg} (h : ry.wf = true) (rc : BitVec 12) :
    decodeReg (encodeMovecExt ry rc) = ry := by
  rw [decodeReg_eq, encodeMovecExt_reg, regOfField_encodeReg h]

theorem decodeReg_wf (ext : Half) : (decodeReg ext).wf = true := by
  rw [decodeReg_eq]
  exact regOfField_wf _

/-- The control register number selects the row, or there is none (R63, R64). -/
theorem decodeMovec_cases (ext : Half) :
    (ext.extractLsb' 0 12 = 0x002#12 ∧ decodeMovec ext = .instr (.movecCacr (decodeReg ext)) 2) ∨
    (ext.extractLsb' 0 12 = 0x004#12 ∧ decodeMovec ext = .instr (.movecAcr0 (decodeReg ext)) 2) ∨
    (ext.extractLsb' 0 12 = 0x005#12 ∧ decodeMovec ext = .instr (.movecAcr1 (decodeReg ext)) 2) ∨
    decodeMovec ext = .rejected (.unassignedRc (ext.extractLsb' 0 12)) := by
  simp only [decodeMovec]
  split
  · next h => exact .inl ⟨h, rfl⟩
  · split
    · next h => exact .inr (.inl ⟨h, rfl⟩)
    · split
      · next h => exact .inr (.inr (.inl ⟨h, rfl⟩))
      · exact .inr (.inr (.inr rfl))

/-! ### The word of CPUSHL (R62) -/

/-- CPUSHL's fixed bits without the cache field, as a mask. -/
theorem cpushlPattern_iff (w : Half) :
    (w.extractLsb' 8 8 = 0xF4#8 ∧ w.extractLsb' 3 3 = 0b101#3) ↔ w &&& 0xFF38#16 = 0xF428#16 := by
  constructor
  · rintro ⟨hhigh, hlow⟩
    have hw : w &&& 0xFF38#16 = (w.extractLsb' 8 8).setWidth 16 <<< 8 ||| (w.extractLsb' 3 3).setWidth 16 <<< 3 := by
      ext n hn
      interval_cases n <;> simp
    rw [hw, hhigh, hlow]
    rfl
  · intro h
    have hhigh : w.extractLsb' 8 8 = (w &&& 0xFF38#16).extractLsb' 8 8 := by
      ext n hn
      interval_cases n <;> simp
    have hlow : w.extractLsb' 3 3 = (w &&& 0xFF38#16).extractLsb' 3 3 := by
      ext n hn
      interval_cases n <;> simp
    rw [hhigh, hlow, h]
    exact ⟨rfl, rfl⟩

/-- With the cache field 11 the mask covers every bit but the register number. -/
theorem cpushlWord_iff (w : Half) :
    (w &&& 0xFF38#16 = 0xF428#16 ∧ w.extractLsb' 6 2 = 0b11#2) ↔ w &&& 0xFFF8#16 = 0xF4E8#16 := by
  constructor
  · rintro ⟨hpattern, hfield⟩
    have hw : w &&& 0xFFF8#16 = (w &&& 0xFF38#16) ||| (w.extractLsb' 6 2).setWidth 16 <<< 6 := by
      ext n hn
      interval_cases n <;> simp
    rw [hw, hpattern, hfield]
    rfl
  · intro h
    have hpattern : w &&& 0xFF38#16 = (w &&& 0xFFF8#16) &&& 0xFF38#16 := by
      rw [BitVec.and_assoc]
      rfl
    have hfield : w.extractLsb' 6 2 = (w &&& 0xFFF8#16).extractLsb' 6 2 := by
      ext n hn
      interval_cases n <;> simp
    rw [hpattern, hfield, h]
    exact ⟨rfl, rfl⟩

/-- A word of CPUSHL's pattern is the encoding of CPUSHL with the register number of its low three bits. -/
theorem encode_cpushl_of_pattern {w : Half} (h : w &&& 0xFFF8#16 = 0xF4E8#16) :
    encode (.cpushl (w.extractLsb' 0 3).toNat) = [w] := by
  have hnum : BitVec.ofNat 16 ((w.extractLsb' 0 3).toNat % 8) = (w.extractLsb' 0 3).setWidth 16 := by
    rw [Nat.mod_eq_of_lt (w.extractLsb' 0 3).isLt, BitVec.ofNat_toNat]
  have hw : (w &&& 0xFFF8#16) ||| (w.extractLsb' 0 3).setWidth 16 = w := by
    ext n hn
    interval_cases n <;> simp
  rw [encode, hnum, ← h, hw]

/-- What a first word other than MOVEC's decodes to, by its fixed bits (R62, R66). -/
theorem decodeSingle_cases (w : Half) :
    (w &&& 0xFFF8#16 = 0xF4E8#16 ∧ decodeSingle w = .instr (.cpushl (w.extractLsb' 0 3).toNat) 1) ∨
    (w &&& 0xFFF8#16 ≠ 0xF4E8#16 ∧ decodeSingle w =
      .rejected (if w &&& 0xFF38#16 = 0xF428#16 then .cpushlCacheField (w.extractLsb' 6 2) else .outsideUnit w)) := by
  simp only [decodeSingle, cpushlPattern_iff]
  split
  · next hpattern =>
    split
    · next hfield => exact .inl ⟨(cpushlWord_iff w).mp ⟨hpattern, hfield⟩, rfl⟩
    · next hfield => exact .inr ⟨fun h => hfield ((cpushlWord_iff w).mpr h).2, rfl⟩
  · next hpattern => exact .inr ⟨fun h => hpattern ((cpushlWord_iff w).mpr h).1, rfl⟩

/-! ### Words -/

theorem decodeWords_movec (ext : Half) (rest : List Half) :
    decodeWords (movecOpcode :: ext :: rest) = decodeMovec ext := rfl

theorem decodeWords_single {w : Half} (h : w ≠ movecOpcode) (rest : List Half) :
    decodeWords (w :: rest) = decodeSingle w := if_neg h

/-- A word of CPUSHL's pattern is not MOVEC's first word. -/
theorem ne_movecOpcode_of_pattern {w : Half} (h : w &&& 0xFFF8#16 = 0xF4E8#16) : w ≠ movecOpcode := by
  rintro rfl
  revert h
  decide

/-- The word of CPUSHL has its pattern and its register number. -/
theorem encode_cpushl {n : Nat} (h : n < 8) :
    ∃ w : Half, encode (.cpushl n) = [w] ∧ w &&& 0xFFF8#16 = 0xF4E8#16 ∧ (w.extractLsb' 0 3).toNat = n := by
  refine ⟨_, rfl, ?_⟩
  interval_cases n <;> exact ⟨rfl, rfl⟩

theorem decodeWords_encode {i : Instr} (h : i.WellFormed) (rest : List Half) :
    decodeWords (encode i ++ rest) = .instr i i.words := by
  cases i with
  | movecCacr ry => simp [encode, decodeWords_movec, decodeMovec, encodeMovecExt_rc, decodeReg_encodeMovecExt h, Instr.words]
  | movecAcr0 ry => simp [encode, decodeWords_movec, decodeMovec, encodeMovecExt_rc, decodeReg_encodeMovecExt h, Instr.words]
  | movecAcr1 ry => simp [encode, decodeWords_movec, decodeMovec, encodeMovecExt_rc, decodeReg_encodeMovecExt h, Instr.words]
  | cpushl n =>
    obtain ⟨w, hw, hpattern, hnum⟩ := encode_cpushl (of_decide_eq_true h)
    rw [hw, List.singleton_append, decodeWords_single (ne_movecOpcode_of_pattern hpattern)]
    obtain ⟨-, e⟩ | ⟨hne, -⟩ := decodeSingle_cases w
    · rw [e, hnum, Instr.words]
    · exact absurd hpattern hne

/-- Bytes in memory order give their words back (R43). -/
theorem wordsOfBytes_bytesOfWords (ws : List Half) : wordsOfBytes (bytesOfWords ws) = ws := by
  induction ws with
  | nil => rfl
  | cons w ws ih =>
    have hw : (w.extractLsb' 8 8).setWidth 16 <<< 8 ||| (w.extractLsb' 0 8).setWidth 16 = w := by
      ext n hn
      interval_cases n <;> simp
    rw [bytesOfWords, wordsOfBytes, ih, hw]

/-- What a MOVEC's second word decodes to is a well-formed instruction of two words, which encodes to it. -/
theorem encode_of_decodeMovec {ext : Half} {i : Instr} {n : Nat} (h : decodeMovec ext = .instr i n) :
    i.WellFormed ∧ n = 2 ∧ i.words = 2 ∧ encode i = [movecOpcode, ext] := by
  have hext (rc : BitVec 12) (hrc : ext.extractLsb' 0 12 = rc) : encodeMovecExt (decodeReg ext) rc = ext := by
    rw [← hrc, encodeMovecExt_decodeReg]
  obtain ⟨hrc, e⟩ | ⟨hrc, e⟩ | ⟨hrc, e⟩ | e := decodeMovec_cases ext <;> rw [e] at h <;> cases h
  all_goals exact ⟨decodeReg_wf ext, rfl, rfl, by rw [encode, hext _ hrc]⟩

/-- What a first word other than MOVEC's decodes to is a well-formed instruction of one word, which encodes to it. -/
theorem encode_of_decodeSingle {w : Half} {i : Instr} {n : Nat} (h : decodeSingle w = .instr i n) :
    i.WellFormed ∧ n = 1 ∧ i.words = 1 ∧ encode i = [w] := by
  obtain ⟨hpattern, e⟩ | ⟨-, e⟩ := decodeSingle_cases w <;> rw [e] at h <;> cases h
  exact ⟨decide_eq_true (w.extractLsb' 0 3).isLt, rfl, rfl, encode_cpushl_of_pattern hpattern⟩

/-- Words that decode begin with the encoding of the instruction they decode to (R61, R62). -/
theorem take_eq_encode_of_decodeWords {ws : List Half} {i : Instr} {n : Nat} (h : decodeWords ws = .instr i n) :
    i.WellFormed ∧ n = i.words ∧ ws.take n = encode i := by
  cases ws with
  | nil => cases h
  | cons w rest =>
    by_cases hw : w = movecOpcode
    · subst hw
      cases rest with
      | nil => cases h
      | cons ext rest =>
        obtain ⟨hwf, rfl, hlen, henc⟩ := encode_of_decodeMovec ((decodeWords_movec ext rest).symm.trans h)
        exact ⟨hwf, hlen.symm, henc.symm⟩
    · obtain ⟨hwf, rfl, hlen, henc⟩ := encode_of_decodeSingle ((decodeWords_single hw rest).symm.trans h)
      exact ⟨hwf, hlen.symm, henc.symm⟩

end Sys2Proof

namespace Sys2Proof.Machine

/-! ### The instruction step over words held already -/

/-- With the words of its length held, an empty agenda and at least one word, the step decodes what is held. -/
theorem step_of_held {s : State} (ha : s.agenda = []) (h1 : 1 ≤ s.core.prefetch.length)
    (hn : wordsNeeded s.core.prefetch ≤ s.core.prefetch.length) : step s = s.runHeld := by
  have hfetch : s.fetchInstruction = .next s := by
    simp only [State.fetchInstruction, State.ensureWords_held h1, State.ensureWords_held hn]
  rw [step, State.nextMove, ha]
  simp only [State.instructionStep, hfetch]

/-- A first word other than MOVEC's needs no second one (R65). -/
theorem wordsNeeded_single {w : Half} (h : w ≠ movecOpcode) (rest : List Half) : wordsNeeded (w :: rest) = 1 := if_neg h

/-- Held words that begin with MOVEC's first word and another are decoded. -/
theorem step_of_held_movec {s : State} {ext : Half} {rest : List Half} (ha : s.agenda = [])
    (hp : s.core.prefetch = movecOpcode :: ext :: rest) : step s = s.runHeld :=
  step_of_held ha (by simp [hp]) (by simp [hp, wordsNeeded])

/-- Held words that begin with another first word are decoded. -/
theorem step_of_held_single {s : State} {w : Half} {rest : List Half} (ha : s.agenda = [])
    (hp : s.core.prefetch = w :: rest) (hw : w ≠ movecOpcode) : step s = s.runHeld :=
  step_of_held ha (by simp [hp]) (by simp [hp, wordsNeeded_single hw])

/-- Words that are none of the four rows are refused by the name of the reason (R66). -/
theorem State.runHeld_rejected {s : State} {e : DecodeError} (h : decodeWords s.core.prefetch = .rejected e) :
    s.runHeld = .refused (refusalOf e) := by
  rw [State.runHeld, h]

/-- Words that decode are executed. -/
theorem State.runHeld_instr {s : State} {i : Instr} {n : Nat} (h : decodeWords s.core.prefetch = .instr i n) :
    s.runHeld = exec i s := by
  rw [State.runHeld, h]

end Sys2Proof.Machine

namespace Sys2Proof.Proofs

open Sys2Proof Sys2Proof.Machine

/-- Settles O1: over words by `decodeWords_encode`, over bytes by the layout's round trip. -/
theorem decodeOfEncode : Obligations.DecodeOfEncode := by
  unfold Obligations.DecodeOfEncode
  refine fun i rest h => ⟨decodeWords_encode h rest, ?_⟩
  have hwords := decodeWords_encode h []
  rwa [List.append_nil, ← wordsOfBytes_bytesOfWords (encode i)] at hwords

/-- Settles O2: the two kinds of first word, each rebuilt from its fields. -/
theorem encodeOfDecode : Obligations.EncodeOfDecode := by
  unfold Obligations.EncodeOfDecode
  exact fun _ _ _ h => take_eq_encode_of_decodeWords h

/-- Settles O3, on closed words. -/
theorem sampleWordsDecode : Obligations.SampleWordsDecode := by
  unfold Obligations.SampleWordsDecode
  decide

/-- Settles O4: of the rows a MOVEC's second word can select only "none" is left. -/
theorem unassignedRcRefused : Obligations.UnassignedRcRefused := by
  unfold Obligations.UnassignedRcRefused
  intro s ext rest ha hp h2 h4 h5
  obtain ⟨hrc, -⟩ | ⟨hrc, -⟩ | ⟨hrc, -⟩ | e := decodeMovec_cases ext
  · exact absurd hrc h2
  · exact absurd hrc h4
  · exact absurd hrc h5
  · rw [step_of_held_movec ha hp, State.runHeld_rejected (e := .unassignedRc _) (by rw [hp]; exact e), refusalOf]

/-- Settles O5: a first word that is neither MOVEC's nor CPUSHL's, by its fixed bits. -/
theorem otherWordsRefused : Obligations.OtherWordsRefused := by
  unfold Obligations.OtherWordsRefused
  intro s w rest ha hp hmovec hcpushl
  obtain ⟨h, -⟩ | ⟨-, e⟩ := decodeSingle_cases w
  · exact absurd h hcpushl
  · rw [step_of_held_single ha hp hmovec,
      State.runHeld_rejected (by rw [hp, decodeWords_single hmovec]; exact e)]
    split <;> rfl

end Sys2Proof.Proofs

/-! SUPPORT. The four instructions as a whole (42_invalidation.md, 43_movec.md, 60_exceptions.md): what each answers in user and
in supervisor mode, what of the array they keep, and the exceptions. -/

namespace Sys2Proof.Machine

/-! ### The array kept -/

/-- From `c` to `d` no entry of the array became valid and no tag or data entry changed. -/
structure Cache.KeepsLines (c d : Cache) : Prop where
  tag : d.tag = c.tag
  data : d.data = c.data
  valid : ∀ i, d.validAt i = true → c.validAt i = true

theorem Cache.KeepsLines.tagAt {c d : Cache} (h : c.KeepsLines d) (i : BitVec 5) : d.tagAt i = c.tagAt i := by
  rw [Cache.tagAt, Cache.tagAt, h.tag]

theorem Cache.KeepsLines.dataAt {c d : Cache} (h : c.KeepsLines d) (j : BitVec 7) : d.dataAt j = c.dataAt j := by
  rw [Cache.dataAt, Cache.dataAt, h.data]

theorem Cache.KeepsLines.of_eq {c d : Cache} (htag : d.tag = c.tag) (hdata : d.data = c.data) (hvalid : d.valid = c.valid) :
    c.KeepsLines d :=
  ⟨htag, hdata, fun i h => by rwa [Cache.validAt, hvalid] at h⟩

theorem Cache.KeepsLines.refl (c : Cache) : c.KeepsLines c := .of_eq rfl rfl rfl

/-- Clearing the valid bit of one entry makes none valid. -/
theorem Cache.KeepsLines.of_cleared {c d : Cache} (i : BitVec 5) (htag : d.tag = c.tag) (hdata : d.data = c.data)
    (hvalid : d.valid = put c.valid i false) : c.KeepsLines d := by
  refine ⟨htag, hdata, fun j h => ?_⟩
  rw [Cache.validAt, hvalid, look_put] at h
  split at h
  · cases h
  · exact h

/-- A write to a control register touches no entry (R120 to R122). -/
theorem Cache.keepsLines_writeCtrl (c : Cache) (rc : CtrlReg) (v : Long) : c.KeepsLines (c.writeCtrl rc v) := by
  obtain ⟨-, e⟩ | ⟨-, e⟩ | ⟨-, e⟩ := c.writeCtrl_cases rc v <;> rw [e] <;> exact .of_eq rfl rfl rfl

/-- CPUSHL clears one valid bit at most (R113, R114). -/
theorem Cache.keepsLines_pushLine (clears : Bool) (v : Long) (c : Cache) : c.KeepsLines (c.pushLine clears v) := by
  obtain ⟨-, e⟩ | ⟨-, e⟩ := c.pushLine_cases clears v <;> rw [e]
  · exact .refl c
  · exact .of_cleared (idxOf v) rfl rfl rfl

/-- CPUSHL leaves the buffer or empties it (R116 (b)). -/
theorem Cache.pushLine_fb (clears : Bool) (v : Long) (c : Cache) :
    (c.pushLine clears v).fb = c.fb ∨ (c.pushLine clears v).fb = c.fb.empty := by
  obtain ⟨-, e⟩ | ⟨-, e⟩ := c.pushLine_cases clears v <;> rw [e]
  · exact .inl rfl
  · by_cases hown : clears = true ∧ idxOf v = c.fb.idx
    · exact .inr (if_pos hown)
    · exact .inl (if_neg hown)

/-! ### MOVEC Ry,CACR -/

theorem exec_movecCacr (ry : Reg) (s : State) : exec (.movecCacr ry) s = movec .cacr ry s := rfl

/-- A write to CACR replaces that register, and bit 24 of the value starts the sequence (R110, R120). -/
theorem Cache.writeCtrl_cacr (c : Cache) (v : Long) : c.writeCtrl .cacr v =
    { c with cacr := v &&& 0x98000723#32, invLeft := if v.getLsbD 24 then 32 else c.invLeft } := by
  obtain ⟨-, e⟩ | ⟨h, -⟩ | ⟨h, -⟩ := c.writeCtrl_cases .cacr v
  · exact e
  · cases h
  · cases h

/-! ### CPUSHL and the buffer (decision D6) -/

/-- With CPDI = 0 CPUSHL changes of the unit the one valid bit, and empties a buffer of that entry. -/
theorem Cache.pushLine_eq {c : Cache} (h : c.cpdi = false) (v : Long) :
    c.pushLine Config.cpushlClearsFillbuf v = { c with
      valid := put c.valid (idxOf v) false
      fb := if idxOf v = c.fb.idx then c.fb.empty else c.fb } := by
  obtain ⟨hc, -⟩ | ⟨-, e⟩ := c.pushLine_cases Config.cpushlClearsFillbuf v
  · rw [h] at hc
    cases hc
  · simpa only [Config.cpushlClearsFillbuf, true_and] using e

/-! ### Any of the four instructions -/

theorem execCpushl_user (n : Nat) {s : State} (hs : s.supervisor = false) :
    execCpushl n s = .next (s.takeException .privilegeViolation) := by
  rw [execCpushl]
  obtain ⟨hu, -⟩ | ⟨-, hexc⟩ := privileged_cases s _
  · rw [hs] at hu
    cases hu
  · exact hexc

/-- In user mode each instruction takes the privilege violation (R123, R132). -/
theorem exec_user (i : Instr) {s : State} (hs : s.supervisor = false) :
    exec i s = .next (s.takeException .privilegeViolation) := by
  cases i with
  | movecCacr ry => exact movec_user .cacr ry hs
  | movecAcr0 ry => exact movec_user .acr0 ry hs
  | movecAcr1 ry => exact movec_user .acr1 ry hs
  | cpushl n => exact execCpushl_user n hs

/-- A MOVEC that answers a next state in supervisor mode has written a register and passed two words. -/
theorem movec_next_supervisor {rc : CtrlReg} {ry : Reg} {s t : State} (hs : s.supervisor = true)
    (h : movec rc ry s = .next t) : ∃ v, t = (s.writeCtrl rc v).advance 2 := by
  obtain ⟨hu, -⟩ | ⟨v, -, -, e⟩ := movec_next h
  · rw [hs] at hu
    cases hu
  · exact ⟨v, e⟩

/-- An instruction that answers a next state in supervisor mode has changed the unit, by a register write or as CPUSHL, and
passed its words. -/
theorem exec_next_supervisor {i : Instr} {s t : State} (hs : s.supervisor = true) (h : exec i s = .next t) :
    ∃ c : Cache, t = State.advance { s with cache := c } i.words ∧ s.cache.KeepsLines c := by
  have hmovec {rc : CtrlReg} {ry : Reg} (h : movec rc ry s = .next t) :
      ∃ c : Cache, t = State.advance { s with cache := c } 2 ∧ s.cache.KeepsLines c := by
    obtain ⟨v, e⟩ := movec_next_supervisor hs h
    exact ⟨_, e, s.cache.keepsLines_writeCtrl rc v⟩
  cases i with
  | movecCacr ry => exact hmovec (rc := .cacr) h
  | movecAcr0 ry => exact hmovec (rc := .acr0) h
  | movecAcr1 ry => exact hmovec (rc := .acr1) h
  | cpushl n =>
    obtain ⟨hu, -⟩ | ⟨v, -, -, e⟩ := execCpushl_next h
    · rw [hs] at hu
      cases hu
    · exact ⟨_, e, s.cache.keepsLines_pushLine _ v⟩

/-! ### Exceptions (R136) -/

@[simp] theorem State.takeException_supervisor (s : State) (e : Exc) : (s.takeException e).supervisor = true := by
  simp [State.supervisor, Core.supervisor, State.takeException, supervisorSet]

/-- A waiting access error reported (R131). -/
theorem State.runMove_deliverError {s : State} {k : Nat} {e : PendingError} (h : s.plat.errors[k]? = some e) :
    State.runMove s (.deliverError k) =
      .next ({ s with plat := { s.plat with errors := s.plat.errors.eraseIdx k } }.takeException .accessError) := by
  obtain ⟨hn, -⟩ | ⟨-, -, e⟩ := s.deliverError_cases k
  · rw [h] at hn
    cases hn
  · rw [State.runMove, e]

/-- A supervisor reference meets every mode field but 00 (R28). -/
theorem modeMatch_super (sm : BitVec 2) : modeMatch sm true = decide (sm ≠ 0b00#2) := by
  revert sm
  decide

/-- A fetch of the core after an exception is a supervisor reference. -/
theorem State.takeException_fetchRef_super (s : State) (e : Exc) (a : Long) :
    ((s.takeException e).core.fetchRef a).super = true :=
  State.takeException_supervisor s e

/-! ### The Debug module (R115, R127) -/

/-- A register write by the Debug module leaves the unit as a MOVEC in supervisor mode does. -/
theorem debugWrite_as_movec (rc : CtrlReg) (s : State) {u : State} {r : Reg} {v : Long} (hc : u.cache = s.cache)
    (hs : u.supervisor = true) (hr : u.core.readReg r = some v) :
    ∃ t w : State, State.runMove s (.debugWrite rc v) = .next t ∧ movec rc r u = .next w ∧ t.cache = w.cache := by
  refine ⟨_, _, rfl, movec_supervisor rc hs hr, ?_⟩
  rw [State.advance_cache, State.writeCtrl_cache, hc]
  rfl

/-- An invalidation by the Debug module leaves the unit as CPUSHL in supervisor mode does. -/
theorem debugInvalidate_as_cpushl (s : State) {u : State} {n : Nat} {v : Long} (hc : u.cache = s.cache)
    (hs : u.supervisor = true) (hr : u.core.readReg (.a n) = some v) :
    ∃ t w : State, State.runMove s (.debugInvalidate v) = .next t ∧ exec (.cpushl n) u = .next w ∧ t.cache = w.cache := by
  refine ⟨_, _, rfl, exec_cpushl_supervisor hs hr, ?_⟩
  rw [State.advance_cache, State.pushLine_cache, hc]
  rfl

end Sys2Proof.Machine

namespace Sys2Proof.Proofs

open Sys2Proof Sys2Proof.Machine

/-- Settles O6: MOVEC's effect on the unit, with the register write spelled out for CACR. -/
theorem movecCacrWrites : Obligations.MovecCacrWrites := by
  unfold Obligations.MovecCacrWrites
  intro ry s v hr
  rw [exec_movecCacr, ← Cache.writeCtrl_cacr]
  exact movec_writes_unit .cacr hr

/-- Settles O11: what `Cache.pushLine_eq` says of the buffer, for a buffer of the entry and for another. -/
theorem cpushlEmptiesItsBuffer : Obligations.CpushlEmptiesItsBuffer := by
  unfold Obligations.CpushlEmptiesItsBuffer
  intro n s v hs hr hcpdi
  refine ⟨_, exec_cpushl_supervisor hs hr, ?_⟩
  rw [State.advance_cache, State.pushLine_cache, Cache.pushLine_eq hcpdi]
  refine ⟨rfl, fun hidx => ?_, fun hidx => if_neg hidx⟩
  have hfb : (if idxOf v = s.cache.fb.idx then s.cache.fb.empty else s.cache.fb) = s.cache.fb.empty := if_pos hidx
  simp only [hfb, FillBuffer.empty_lwvalidAt, implies_true, true_and]
  rfl

/-- Settles O12: the privilege violation is the exception taken, whose fields are the clauses. -/
theorem userModePrivilegeViolation : Obligations.UserModePrivilegeViolation := by
  unfold Obligations.UserModePrivilegeViolation
  exact fun i s hs =>
    ⟨_, exec_user i hs, rfl, rfl, rfl, State.takeException_supervisor s _, rfl, rfl, rfl, rfl⟩

/-- Settles O13: the unit keeps its lines, and passing words keeps the rest of the state. -/
theorem instructionsFrame : Obligations.InstructionsFrame := by
  unfold Obligations.InstructionsFrame
  intro i s t hs h
  obtain ⟨c, rfl, hkeeps⟩ := exec_next_supervisor hs h
  exact ⟨rfl, rfl, rfl, rfl, fun _ => rfl, hkeeps.tag, hkeeps.data, hkeeps.valid, rfl, rfl, rfl, rfl⟩

/-- Settles O14: the words passed are those of the instruction's length. -/
theorem instructionsPassTheirWords : Obligations.InstructionsPassTheirWords := by
  unfold Obligations.InstructionsPassTheirWords
  intro i s t hs h
  obtain ⟨c, rfl, -⟩ := exec_next_supervisor hs h
  refine ⟨?_, rfl⟩
  cases i <;> rfl

/-- Settles O15: the error reported is the exception taken with that error no longer waiting. -/
theorem accessErrorReported : Obligations.AccessErrorReported := by
  unfold Obligations.AccessErrorReported
  exact fun s k e h => ⟨_, State.runMove_deliverError h, rfl, rfl, rfl, State.takeException_supervisor _ _⟩

/-- Settles O16: after an exception the references are supervisor ones, which every mode field but 00 admits. -/
theorem handlerFetchesAreSupervisor : Obligations.HandlerFetchesAreSupervisor := by
  unfold Obligations.HandlerFetchesAreSupervisor
  intro s e a acr
  simp only [acrMatch, State.takeException_fetchRef_super, modeMatch_super]
  refine ⟨fun hmode => ?_, fun hmode henabled haddr => ?_⟩
  · simp [hmode]
  · have haddr' : (((s.takeException e).core.fetchRef a).addr.extractLsb' 24 8 ^^^ acrBase acr) &&& ~~~ acrMaskField acr =
        0#8 := haddr
    simp [hmode, henabled, haddr']

/-- Settles O17: each Debug module move beside its instruction. -/
theorem debugModuleActsAsInstructions : Obligations.DebugModuleActsAsInstructions := by
  unfold Obligations.DebugModuleActsAsInstructions
  exact fun s u r n v hc hs =>
    ⟨fun hr => ⟨debugWrite_as_movec .cacr s hc hs hr, debugWrite_as_movec .acr0 s hc hs hr,
      debugWrite_as_movec .acr1 s hc hs hr⟩, debugInvalidate_as_cpushl s hc hs⟩

end Sys2Proof.Proofs

/-! SUPPORT. The invalidate-all sequence (42_invalidation.md section 1): what any number of its cycles leave, what is left when it
is complete, and that a fetch is held until then. -/

namespace Sys2Proof.Machine

/-! ### The sequence run to its end -/

/-- The buffer at the end of the sequence (R116 (a), decision D5). -/
def FillBuffer.afterSequence (clears : Bool) (fb : FillBuffer) : FillBuffer := if clears then fb.empty else fb

/-- A sequence with `n` entries to clear, run to its end: only entries from `n` on can still be valid, and where a cycle was
left to run the unit is no longer cold and the buffer has had its part. -/
theorem Cache.invSteps_to_end (clears : Bool) (n : Nat) : ∀ c : Cache, c.invLeft = n → ∃ valid : Vector Bool 32,
    Cache.invSteps clears n c = { c with
      valid := valid
      invLeft := 0
      cold := if n = 0 then c.cold else false
      fb := if n = 0 then c.fb else c.fb.afterSequence clears } ∧
    ∀ i : BitVec 5, look valid i = true → c.validAt i = true ∧ n ≤ i.toNat := by
  induction n with
  | zero =>
    intro c hc
    refine ⟨c.valid, ?_, fun i hi => ⟨hi, Nat.zero_le _⟩⟩
    simp only [Cache.invSteps, if_true, ← hc]
  | succ n ih =>
    intro c hc
    have hstep := Cache.invStep_succ clears c n hc
    obtain ⟨valid, hend, hvalid⟩ := ih (c.invStep clears) (by rw [hstep])
    refine ⟨valid, ?_, fun i hi => ?_⟩
    · rw [Cache.invSteps, hend, hstep]
      by_cases hn : n = 0 <;> simp [hn, FillBuffer.afterSequence]
    · obtain ⟨hold, hle⟩ := hvalid i hi
      rw [hstep, Cache.validAt, look_put] at hold
      split at hold
      · cases hold
      · next hne =>
        refine ⟨hold, Nat.lt_of_le_of_ne hle fun e => hne ?_⟩
        rw [e, BitVec.ofNat_toNat, BitVec.setWidth_eq]

/-- The hold of R112 leaves no sequence running. -/
@[simp] theorem Cache.finishInvalidate_invLeft (clears : Bool) (c : Cache) : (c.finishInvalidate clears).invLeft = 0 := by
  obtain ⟨valid, e, -⟩ := Cache.invSteps_to_end clears c.invLeft c rfl
  rw [Cache.finishInvalidate, e]

/-- The hold makes no entry valid and changes no tag and no data entry (D14). -/
theorem Cache.keepsLines_finishInvalidate (clears : Bool) (c : Cache) : c.KeepsLines (c.finishInvalidate clears) := by
  obtain ⟨valid, e, hvalid⟩ := Cache.invSteps_to_end clears c.invLeft c rfl
  rw [Cache.finishInvalidate, e]
  exact ⟨rfl, rfl, fun i hi => (hvalid i hi).1⟩

/-- One cycle of the sequence makes no entry valid and changes no tag and no data entry. -/
theorem Cache.keepsLines_invStep (clears : Bool) (c : Cache) : c.KeepsLines (c.invStep clears) := by
  cases hn : c.invLeft with
  | zero => rw [Cache.invStep_idle clears c hn]; exact .refl c
  | succ n => rw [Cache.invStep_succ clears c n hn]; exact .of_cleared (BitVec.ofNat 5 n) rfl rfl rfl

/-- One cycle leaves the buffer or empties it. -/
theorem Cache.invStep_fb (clears : Bool) (c : Cache) :
    (c.invStep clears).fb = c.fb ∨ (c.invStep clears).fb = c.fb.empty := by
  cases hn : c.invLeft with
  | zero => exact .inl (by rw [Cache.invStep_idle clears c hn])
  | succ n =>
    rw [Cache.invStep_succ clears c n hn]
    by_cases hlast : n = 0 ∧ clears = true
    · exact .inr (if_pos hlast)
    · exact .inl (if_neg hlast)

/-- The hold leaves the buffer or empties it. -/
theorem Cache.finishInvalidate_fb (clears : Bool) (c : Cache) :
    (c.finishInvalidate clears).fb = c.fb ∨ (c.finishInvalidate clears).fb = c.fb.empty := by
  obtain ⟨valid, e, -⟩ := Cache.invSteps_to_end clears c.invLeft c rfl
  rw [Cache.finishInvalidate, e]
  by_cases hn : c.invLeft = 0
  · exact .inl (if_pos hn)
  · cases clears
    · exact .inl (if_neg hn)
    · exact .inr (if_neg hn)

/-! ### A whole sequence of 32 entries -/

/-- All 32 cycles from a start (R111): no entry is valid, whatever the unit held. -/
theorem Cache.invSteps_all (clears : Bool) {c : Cache} (hc : c.invLeft = 32) : ∃ valid : Vector Bool 32,
    Cache.invSteps clears 32 c = { c with
      valid := valid, invLeft := 0, cold := false, fb := c.fb.afterSequence clears } ∧
    ∀ i : BitVec 5, look valid i = false := by
  obtain ⟨valid, e, hvalid⟩ := Cache.invSteps_to_end clears 32 c hc
  refine ⟨valid, e, fun i => ?_⟩
  have hlt := i.isLt
  by_contra hi
  have hle := (hvalid i (by simpa using hi)).2
  omega

/-- The array and the buffer hold nothing valid. -/
structure Cache.Emptied (c : Cache) : Prop where
  array : ∀ i, c.validAt i = false
  buffer : ∀ k, c.fb.lwvalidAt k = false

/-- Where the sequence clears the buffer too, a completed one leaves the unit emptied. -/
theorem Cache.emptied_invSteps {c : Cache} (hc : c.invLeft = 32) :
    (Cache.invSteps Config.cinvClearsFillbuf 32 c).Emptied := by
  obtain ⟨valid, e, hvalid⟩ := Cache.invSteps_all Config.cinvClearsFillbuf hc
  rw [e]
  exact ⟨hvalid, c.fb.empty_lwvalidAt⟩

theorem Cache.Emptied.arrayHit {c : Cache} (h : c.Emptied) (a : Long) : c.arrayHit a = false := by
  rw [Cache.arrayHit, h.array, Bool.false_and]

theorem Cache.Emptied.hit {c : Cache} (h : c.Emptied) (a : Long) : c.fb.hit a = false := by
  rw [FillBuffer.hit, h.buffer, Bool.and_false]

/-- What holds nothing holds nothing stale. -/
theorem Cache.Emptied.coherent {c : Cache} (h : c.Emptied) (m : Memory) : c.Coherent m := by
  refine ⟨fun i _ hi => ?_, fun k hk => ?_⟩
  · rw [h.array] at hi
    cases hi
  · rw [h.buffer] at hk
    cases hk

/-! ### The hold of a fetch (R112) -/

/-- Holding twice is holding once. -/
theorem State.finishInvalidate_finishInvalidate (s : State) : s.finishInvalidate.finishInvalidate = s.finishInvalidate :=
  State.finishInvalidate_idle _ (Cache.finishInvalidate_invLeft _ _)

theorem State.fetch_finishInvalidate (s : State) (r : Ref) : s.fetch r = s.finishInvalidate.fetch r := by
  simp only [State.fetch, State.finishInvalidate_finishInvalidate]

/-- A property that the bus side's changes, a new buffer and a line transfer keep is kept by all that a fetch is made of. -/
theorem FetchClosed.of_changes {P : State → Prop} (hsettle : ∀ s, P s → P { s with plat := s.plat.settleWrites })
    (haccess : ∀ s x, P s → P { s with plat := s.plat.access x })
    (htouch : ∀ s a, P s → P { s with plat := s.plat.touch a }) (hfb : ∀ s fb, P s → P (s.withFb fb))
    (htransfer : ∀ s, P s → P { s with cache := s.cache.transfer }) : FetchClosed P where
  fill s hs := by
    obtain ⟨-, e⟩ | ⟨k, rest, -, ⟨-, e⟩ | ⟨-, e⟩⟩ := s.fillStep_cases <;> rw [e]
    · exact hs
    · exact hfb _ _ (haccess s (.beat (lineLong s.cache.fb.addr k)) hs)
    · exact hfb _ _ (htouch _ _ (haccess s (.beat (lineLong s.cache.fb.addr k)) hs))
  settle := hsettle
  access := haccess
  touch := htouch
  mru s b hs := hfb s { s.cache.fb with mru := b } hs
  load s a b hs := hfb _ (s.cache.transfer.loadBuffer a b).fb (htransfer s hs)
  arriveOne s a hs _ _ _ := htouch _ a (hfb s _ hs)
  arriveLine s a hs _ _ _ := htouch _ a (hfb s _ hs)

/-- A part of the state outside the bus side that a new buffer and a line transfer leave is left by a fetch past the hold. -/
theorem State.cacheFetch_part {α : Type} (part : State → α) (hplat : ∀ s p, part { s with plat := p } = part s)
    (hfb : ∀ s fb, part (s.withFb fb) = part s) (htransfer : ∀ s : State, part { s with cache := s.cache.transfer } = part s)
    (s : State) (r : Ref) : part (s.cacheFetch r).2 = part s := by
  refine (FetchClosed.of_changes (P := fun t => part t = part s) (fun t h => ?_) (fun t x h => ?_) (fun t a h => ?_)
    (fun t fb h => ?_) (fun t h => ?_)).cacheFetch s r rfl
  · exact (hplat t _).trans h
  · exact (hplat t _).trans h
  · exact (hplat t _).trans h
  · exact (hfb t fb).trans h
  · exact (htransfer t).trans h

/-- A part of the state outside the bus side and the draws that a new buffer and a line transfer leave is as the hold leaves
it after a fetch. -/
theorem State.fetch_part {α : Type} (part : State → α) (hplat : ∀ s p, part { s with plat := p } = part s)
    (hfb : ∀ s fb, part (s.withFb fb) = part s) (htransfer : ∀ s : State, part { s with cache := s.cache.transfer } = part s)
    (hdraw : ∀ (s : State) (n : Nat), part { s with draws := n } = part s) (s : State) (r : Ref) :
    part (s.fetch r).2 = part s.finishInvalidate := by
  have hpast := State.cacheFetch_part part hplat hfb htransfer s.finishInvalidate r
  simp only [State.fetch]
  split
  · rfl
  · split
    · obtain e | e := coldAnswer_state (s.finishInvalidate.cacheFetch r) <;> rw [e]
      · exact hpast
      · exact (hdraw _ _).trans hpast
    · exact hpast

@[simp] theorem State.fetch_invLeft (s : State) (r : Ref) : (s.fetch r).2.cache.invLeft = 0 := by
  rw [State.fetch_part (·.cache.invLeft) (fun _ _ => rfl) (fun _ _ => rfl) (fun t => t.cache.transfer_invLeft)
    (fun _ _ => rfl)]
  exact Cache.finishInvalidate_invLeft _ _

/-! ### The address match of an ACR (R71) -/

/-- The mode field admits a reference by SM1, or by SM0 equal to the reference's mode. -/
theorem modeMatch_iff (sm : BitVec 2) (super : Bool) :
    modeMatch sm super = true ↔ sm.getLsbD 1 = true ∨ sm.getLsbD 0 = super := by
  revert sm super
  decide

/-- Two bytes agree outside a mask when each bit whose mask bit is clear does. -/
theorem xor_and_not_eq_zero_iff (x b m : BitVec 8) :
    (x ^^^ b) &&& ~~~m = 0#8 ↔ ∀ i < 8, m.getLsbD i = false → x.getLsbD i = b.getLsbD i := by
  constructor
  · intro h i hi hm
    have hbit : ((x ^^^ b) &&& ~~~m).getLsbD i = false := by rw [h, BitVec.getLsbD_zero]
    rw [BitVec.getLsbD_and, BitVec.getLsbD_xor, BitVec.getLsbD_not, hm] at hbit
    simpa [hi] using hbit
  · intro h
    refine BitVec.eq_of_getLsbD_eq fun i hi => ?_
    cases hm : m.getLsbD i
    · simp [h i hi hm]
    · simp [hm]

end Sys2Proof.Machine

namespace Sys2Proof.Proofs

open Sys2Proof Sys2Proof.Machine

/-- Settles O18: one cycle by `Cache.invStep_succ`, all of them by `Cache.invSteps_all`. -/
theorem sequenceClearsEveryEntry : Obligations.SequenceClearsEveryEntry := by
  unfold Obligations.SequenceClearsEveryEntry
  refine fun clears c => ⟨fun n hn => ?_, ?_⟩
  · rw [Cache.invStep_succ clears c n hn]
    refine ⟨rfl, ⟨BitVec.ofNat 5 n, fun j => ?_⟩, ?_⟩
    · simp only [Cache.validAt, look_put, eq_comm]
    · by_cases h : n = 0 <;> simp [h]
  · obtain ⟨valid, e, hvalid⟩ := Cache.invSteps_all clears (c := c.startInvalidate) rfl
    refine ⟨_, e, hvalid, rfl, rfl, rfl, rfl, rfl, rfl, rfl, ?_, ?_⟩
    · rintro rfl
      exact ⟨c.fb.empty_lwvalidAt, rfl⟩
    · rintro rfl
      rfl

/-- Settles O19: the hold is the first thing a fetch does, and what follows starts no sequence. -/
theorem fetchWaitsForSequence : Obligations.FetchWaitsForSequence := by
  unfold Obligations.FetchWaitsForSequence
  exact fun s r => ⟨s.fetch_finishInvalidate r, s.fetch_invLeft r⟩

/-- Settles O20: the write starts all 32 entries, and the sequence run to its end empties array and buffer. -/
theorem cinvWriteEmptiesCache : Obligations.CinvWriteEmptiesCache := by
  unfold Obligations.CinvWriteEmptiesCache
  intro ry s v hs hr hcinv
  have hcache : (s.cache.writeCtrl .cacr v) = { s.cache with cacr := v &&& 0x98000723#32, invLeft := 32 } := by
    rw [Cache.writeCtrl_cacr, if_pos hcinv]
  have hleft : (s.cache.writeCtrl .cacr v).invLeft = 32 := by rw [hcache]
  have hcacr : (s.cache.writeCtrl .cacr v).cacr = v &&& 0x98000723#32 := by rw [hcache]
  refine ⟨_, movec_supervisor .cacr hs hr, hcacr, ?_⟩
  rw [State.finishInvalidate_cache, State.advance_cache, State.writeCtrl_cache]
  have hend : (s.cache.writeCtrl .cacr v).finishInvalidate Config.cinvClearsFillbuf =
      Cache.invSteps Config.cinvClearsFillbuf 32 (s.cache.writeCtrl .cacr v) := by rw [Cache.finishInvalidate, hleft]
  have hempty := Cache.emptied_invSteps hleft
  obtain ⟨valid, hall, -⟩ := Cache.invSteps_all Config.cinvClearsFillbuf hleft
  rw [hend]
  exact ⟨by rw [hall]; exact hcacr, by rw [hall], fun a => ⟨hempty.arrayHit a, hempty.hit a⟩⟩

/-- Settles O21: a completed sequence leaves nothing valid. -/
theorem completedSequenceIsCoherent : Obligations.CompletedSequenceIsCoherent := by
  unfold Obligations.CompletedSequenceIsCoherent
  exact fun c m => (Cache.emptied_invSteps (c := c.startInvalidate) rfl).coherent m

/-- Settles O22: the three conditions of the match, each by the bits of its field. -/
theorem acrMatchBitByBit : Obligations.AcrMatchBitByBit := by
  unfold Obligations.AcrMatchBitByBit
  intro acr r
  have hmode1 : (acrMode acr).getLsbD 1 = acr.getLsbD 14 := by simp [acrMode]
  have hmode0 : (acrMode acr).getLsbD 0 = acr.getLsbD 13 := by simp [acrMode]
  simp only [acrMatch, Bool.and_eq_true, decide_eq_true_eq, modeMatch_iff, xor_and_not_eq_zero_iff, and_assoc, hmode1, hmode0]
  refine and_congr_right' (and_congr_right' ⟨fun h n hlo hhi hmask => ?_, fun h i hi hmask => ?_⟩)
  · obtain ⟨i, rfl⟩ := Nat.exists_eq_add_of_le hlo
    have hi : i < 8 := by omega
    have hbit := h i hi
    rw [show 24 + i - 8 = 16 + i by omega] at hmask
    simpa [acrMaskField, acrBase, hi, hmask] using hbit
  · have hbit := h (24 + i) (by omega) (by omega)
    rw [show 24 + i - 8 = 16 + i by omega] at hbit
    have hmask' : acr.getLsbD (16 + i) = false := by simpa [acrMaskField, hi] using hmask
    simpa [acrBase, hi] using hbit hmask'

/-- Settles O52: the fields of a hardware reset. -/
theorem resetKeepsArrays : Obligations.ResetKeepsArrays := by
  unfold Obligations.ResetKeepsArrays
  exact ⟨rfl, fun s => ⟨_, rfl, rfl, rfl, rfl, rfl, fun k => look_replicate _ k _, rfl, rfl⟩⟩

/-- Settles O56: cleared registers, an empty buffer, no sequence and empty memories. -/
theorem resetIsSound : Obligations.ResetIsSound := by
  unfold Obligations.ResetIsSound
  exact ⟨⟨rfl, rfl, rfl⟩, ⟨Nat.zero_le 3, List.nodup_nil, fun k hk => nomatch hk⟩, Nat.zero_le _, rfl, rfl⟩

end Sys2Proof.Proofs

/-! SUPPORT. A fetch by its parts (41_fetch_linefill.md): the external fetches with and without a bus error, the path R105 chooses,
and the answers of the buffer and of the array. -/

namespace Sys2Proof.Machine

/-! ### The addresses of a longword's bytes -/

@[simp] theorem longNumber_longBase (a : Long) : longNumber (longBase a) = longNumber a := by
  ext n hn
  interval_cases n <;> simp [longNumber, longBase]

@[simp] theorem Platform.deviceAt_longBase (p : Platform) (a : Long) : p.deviceAt (longBase a) = p.deviceAt a := by
  rw [Platform.deviceAt, longNumber_longBase, Platform.deviceAt]

/-! ### The bus side -/

@[simp] theorem Platform.busErrorAt_settleWrites (p : Platform) (a : Long) : p.settleWrites.busErrorAt a = p.busErrorAt a := by
  rw [Platform.busErrorAt, Platform.settleWrites_busErrors, Platform.busErrorAt]

@[simp] theorem Platform.deviceAt_settleWrites (p : Platform) (a : Long) : p.settleWrites.deviceAt a = p.deviceAt a := by
  rw [Platform.deviceAt, Platform.settleWrites_devices, Platform.deviceAt]

@[simp] theorem Platform.deviceAt_touch (p : Platform) (a b : Long) : (p.touch b).deviceAt a = p.deviceAt a := by
  rw [Platform.deviceAt, Platform.touch_devices, Platform.deviceAt]

/-- A device's address: the access is counted. -/
theorem Platform.touch_device {p : Platform} {a : Long} (h : p.deviceAt a = true) :
    p.touch a = { p with deviceAccesses := p.deviceAccesses + 1 } := if_pos h

/-- The devices' accesses are only ever counted up. -/
theorem Platform.le_touch_deviceAccesses (p : Platform) (a : Long) : p.deviceAccesses ≤ (p.touch a).deviceAccesses := by
  unfold Platform.touch
  split
  · exact Nat.le_succ _
  · exact le_rfl

/-- A longword read on the bus: a device's answer, or memory's longword. -/
theorem Platform.externalRead_longword (p : Platform) (a : Long) : p.externalRead a .longword =
    if p.deviceAt a then Config.deviceAnswer p.deviceAccesses a else Memory.readLong p.mem a := rfl

/-! ### The external fetches, with and without a bus error -/

theorem State.extLongword_ok {s : State} {a : Long} (h : s.plat.busErrorAt a = false) : s.extLongword a =
    (.longword (s.plat.settleWrites.externalRead (longBase a) .longword),
      { s with plat := (s.plat.settleWrites.access (.fetchLongword (longBase a))).touch a }) := by
  simp [State.extLongword, h]

theorem State.extLongword_error {s : State} {a : Long} (h : s.plat.busErrorAt a = true) : s.extLongword a =
    (.busError, { s with plat := s.plat.settleWrites.access (.fetchLongword (longBase a)) }) := by
  simp [State.extLongword, h]

theorem State.extWord_ok {s : State} {a : Long} (h : s.plat.busErrorAt a = false) : s.extWord a =
    (.word ((s.plat.settleWrites.externalRead a .word).setWidth 16),
      { s with plat := (s.plat.settleWrites.access (.fetchWord a)).touch a }) := by
  simp [State.extWord, h]

theorem State.extWord_error {s : State} {a : Long} (h : s.plat.busErrorAt a = true) : s.extWord a =
    (.busError, { s with plat := s.plat.settleWrites.access (.fetchWord a) }) := by
  simp [State.extWord, h]

theorem State.lineFetch_ok {s : State} {a : Long} (h : s.plat.busErrorAt a = false) : s.lineFetch a =
    (.longword (s.plat.settleWrites.externalRead (longBase a) .longword),
      { s.withFb { (s.cache.fb.arrive (lwOf a) (s.plat.settleWrites.externalRead (longBase a) .longword)) with
          pending := restOfLine (lwOf a) } with
        plat := ((s.plat.settleWrites.access (.fetchLine (lineBase a))).access (.beat (longBase a))).touch a }) := by
  simp [State.lineFetch, State.withFb, h]

theorem State.lineFetch_error {s : State} {a : Long} (h : s.plat.busErrorAt a = true) : s.lineFetch a =
    (.busError,
      { s with plat := (s.plat.settleWrites.access (.fetchLine (lineBase a))).access (.beat (longBase a)) }) := by
  simp [State.lineFetch, h]

theorem State.longwordFetch_ok {s : State} {a : Long} (h : s.plat.busErrorAt a = false) : s.longwordFetch a =
    (.longword (s.plat.settleWrites.externalRead (longBase a) .longword),
      { s.withFb (s.cache.fb.arrive (lwOf a) (s.plat.settleWrites.externalRead (longBase a) .longword)) with
        plat := (s.plat.settleWrites.access (.fetchLongword (longBase a))).touch a }) := by
  simp only [State.longwordFetch, State.extLongword_ok h, State.withFb]

theorem State.longwordFetch_error {s : State} {a : Long} (h : s.plat.busErrorAt a = true) : s.longwordFetch a =
    (.busError, { s with plat := s.plat.settleWrites.access (.fetchLongword (longBase a)) }) := by
  simp only [State.longwordFetch, State.extLongword_error h]

/-! ### The path of a fetch (R105) -/

/-- With no sequence running and the SRAM module not involved the fetch goes to the cache; its answer is a free value while the
cache is on and cold. -/
theorem State.fetch_idle {s : State} {r : Ref} (hi : s.cache.invLeft = 0) (hm : s.plat.sramMaps r = false) :
    s.fetch r = if s.cache.cenb && s.cache.cold then coldAnswer (s.cacheFetch r) else s.cacheFetch r := by
  simp [State.fetch, hi, hm]

/-- A fetch once an invalidation has completed. -/
theorem State.fetch_warm {s : State} {r : Ref} (hi : s.cache.invLeft = 0) (hm : s.plat.sramMaps r = false)
    (hc : s.cache.cold = false) : s.fetch r = s.cacheFetch r := by
  simp [State.fetch_idle hi hm, hc]

/-- A fetch with the cache disabled. -/
theorem State.fetch_disabled {s : State} {r : Ref} (hi : s.cache.invLeft = 0) (hm : s.plat.sramMaps r = false)
    (he : s.cache.cenb = false) : s.fetch r = s.uncachedFetch r := by
  simp [State.fetch_idle hi hm, State.cacheFetch, he]

/-- A fetch that the SRAM module services. -/
theorem State.fetch_sram {s : State} {r : Ref} (hi : s.cache.invLeft = 0) (hm : s.plat.sramMaps r = true) :
    s.fetch r = (.longword (Memory.readLong s.plat.sram (longBase r.addr)), s) := by
  simp [State.fetch, hi, hm]

/-- The buffer takes part in a cacheable fetch and in one made with CEIB = 1. -/
theorem State.cacheFetch_buffered {s : State} {r : Ref} (he : s.cache.cenb = true)
    (h : (s.cache.effAttr r).cacheable = true ∨ s.cache.ceib = true) :
    s.cacheFetch r = s.bufferedFetch r.addr (s.cache.effAttr r).cacheable := by
  obtain h | h := h <;> simp [State.cacheFetch, he, h]

/-- A noncacheable fetch with CEIB = 0 passes the buffer by (R98). -/
theorem State.cacheFetch_unbuffered {s : State} {r : Ref} (he : s.cache.cenb = true)
    (hc : (s.cache.effAttr r).cacheable = false) (hb : s.cache.ceib = false) :
    s.cacheFetch r = s.noncacheableFetch r.addr := by
  simp [State.cacheFetch, he, hc, hb]

/-- With the cache disabled the size asked for chooses the access (R85, R102). -/
theorem State.uncachedFetch_eq (s : State) (r : Ref) : s.uncachedFetch r =
    if r.addr.getLsbD 1 = true ∧ r.size = .word then s.extWord r.addr else s.extLongword r.addr := by
  simp [State.uncachedFetch]

/-! ### Answers of the buffer and of the array -/

/-- Nothing is awaited where the longword is not on its way. -/
theorem State.awaitLongword_of_not_onItsWay {s : State} {a : Long} (h : s.cache.fb.onItsWay a = false) (n : Nat) :
    State.awaitLongword a n s = s := by
  cases n <;> simp [State.awaitLongword, h]

theorem FillBuffer.hit_iff (fb : FillBuffer) (a : Long) :
    fb.hit a = true ↔ fb.addr = lineOf a ∧ fb.lwvalidAt (lwOf a) = true := by
  simp [FillBuffer.hit, FillBuffer.lineMatch]

theorem FillBuffer.onItsWay_iff (fb : FillBuffer) (a : Long) : fb.onItsWay a = true ↔
    (fb.addr = lineOf a ∧ fb.lwvalidAt (lwOf a) = false) ∧ lwOf a ∈ fb.pending := by
  simp [FillBuffer.onItsWay, FillBuffer.lineMatch]

theorem Cache.arrayHit_iff (c : Cache) (a : Long) :
    c.arrayHit a = true ↔ c.validAt (idxOf a) = true ∧ c.tagAt (idxOf a) = tagOf a := by
  simp [Cache.arrayHit]

/-- A buffer hit is answered by the buffer (R82, R93). -/
theorem State.bufferedFetch_hit {s : State} {a : Long} (h : s.cache.fb.hit a = true) (b : Bool) :
    s.bufferedFetch a b = s.answerBuffer a := by
  simp [State.bufferedFetch, State.awaitLongword_of_not_onItsWay (FillBuffer.hit_not_onItsWay h), h]

/-- What the buffer neither holds nor awaits the array answers, where it holds it and the fetch may hit it (R81, R83, R98). -/
theorem State.bufferedFetch_arrayHit {s : State} {a : Long} {b : Bool} (hb : s.cache.fb.hit a = false)
    (hw : s.cache.fb.onItsWay a = false) (ha : s.cache.arrayHit a = true)
    (hn : b = true ∨ Config.noncacheableHitsArray = true) : s.bufferedFetch a b = s.answerArray a := by
  have hmay : (b || Config.noncacheableHitsArray) = true := by simpa using hn
  simp [State.bufferedFetch, State.awaitLongword_of_not_onItsWay hw, hb, ha, hmay]

theorem State.noncacheableFetch_arrayHit {s : State} {a : Long} (ha : s.cache.arrayHit a = true)
    (hn : Config.noncacheableHitsArray = true) : s.noncacheableFetch a = s.answerArray a := by
  simp [State.noncacheableFetch, ha, hn]

theorem State.noncacheableFetch_external {s : State} {a : Long}
    (h : s.cache.arrayHit a = false ∨ Config.noncacheableHitsArray = false) :
    s.noncacheableFetch a = s.extLongword a := by
  obtain h | h := h <;> simp [State.noncacheableFetch, h]

/-- What the array answers, and what of the indicator an array hit leaves (R81, R94). -/
theorem State.answerArray_eq (s : State) (a : Long) : s.answerArray a = (.longword (s.cache.dataAt (dataIdx a)),
    { s with cache := { s.cache with fb := { s.cache.fb with
      mru := if idxOf a = s.cache.fb.idx then false else s.cache.fb.mru } } }) := by
  unfold State.answerArray Cache.noteArrayHit
  split <;> rfl

/-- A fetch that hits the array, where the buffer neither holds nor awaits its longword if it takes part. -/
theorem State.cacheFetch_arrayHit {s : State} {r : Ref} (he : s.cache.cenb = true)
    (hmay : (s.cache.effAttr r).cacheable = true ∨ Config.noncacheableHitsArray = true)
    (hfb : (s.cache.effAttr r).cacheable = true ∨ s.cache.ceib = true →
      s.cache.fb.hit r.addr = false ∧ s.cache.fb.onItsWay r.addr = false)
    (ha : s.cache.arrayHit r.addr = true) : s.cacheFetch r = s.answerArray r.addr := by
  by_cases hpart : (s.cache.effAttr r).cacheable = true ∨ s.cache.ceib = true
  · obtain ⟨hb, hw⟩ := hfb hpart
    rw [State.cacheFetch_buffered he hpart, State.bufferedFetch_arrayHit hb hw ha hmay]
  · simp only [not_or, Bool.not_eq_true] at hpart
    obtain ⟨hc, hb⟩ := hpart
    rw [State.cacheFetch_unbuffered he hc hb, State.noncacheableFetch_arrayHit ha (hmay.resolve_left (by simp [hc]))]

/-! ### One step of the line-fill engine (R92) -/

/-- With no bus error at its address the first pending longword arrives, by one access. -/
theorem State.fillStep_ok {s : State} {k : BitVec 2} {rest : List (BitVec 2)} (hp : s.cache.fb.pending = k :: rest)
    (h : s.plat.busErrorAt (lineLong s.cache.fb.addr k) = false) :
    s.fillStep =
      { s.withFb { (s.cache.fb.arrive k (s.plat.externalRead (lineLong s.cache.fb.addr k) .longword)) with
          pending := rest } with
        plat := (s.plat.access (.beat (lineLong s.cache.fb.addr k))).touch (lineLong s.cache.fb.addr k) } := by
  simp [State.fillStep, State.withFb, hp, h]

/-- The longword that arrives becomes valid, and no other. -/
theorem State.fillStep_lwvalidAt {s : State} {k : BitVec 2} {rest : List (BitVec 2)} (hp : s.cache.fb.pending = k :: rest)
    (h : s.plat.busErrorAt (lineLong s.cache.fb.addr k) = false) (j : BitVec 2) :
    s.fillStep.cache.fb.lwvalidAt j = if k = j then true else s.cache.fb.lwvalidAt j := by
  rw [State.fillStep_ok hp h,
    ← FillBuffer.arrive_lwvalidAt s.cache.fb k j (s.plat.externalRead (lineLong s.cache.fb.addr k) .longword)]
  rfl

/-- The buffer holds the longword that arrived as the external bus delivered it, and what it held elsewhere. -/
theorem State.fillStep_dataAt {s : State} {k : BitVec 2} {rest : List (BitVec 2)} (hp : s.cache.fb.pending = k :: rest)
    (h : s.plat.busErrorAt (lineLong s.cache.fb.addr k) = false) (j : BitVec 2) : s.fillStep.cache.fb.dataAt j =
      if k = j then s.plat.externalRead (lineLong s.cache.fb.addr k) .longword else s.cache.fb.dataAt j := by
  rw [State.fillStep_ok hp h, ← FillBuffer.arrive_dataAt]
  rfl

/-! ### A longword on its way (R100) -/

/-- What a wait for longword `lw(a)` of the burst of `s` has done when it ends in `t`: the longword is there, as the external
bus delivered it, and some of the burst's longwords have been accessed. -/
structure State.Awaited (a : Long) (s t : State) : Prop where
  cache : t.cache = { s.cache with fb := t.cache.fb }
  addr : t.cache.fb.addr = s.cache.fb.addr
  valid : t.cache.fb.lwvalidAt (lwOf a) = true
  value : ∃ n, s.plat.deviceAccesses ≤ n ∧ t.cache.fb.dataAt (lwOf a) =
    if s.plat.deviceAt a then Config.deviceAnswer n (longBase a) else Memory.readLong s.plat.mem (longBase a)
  log : ∃ ks, ks <+: s.cache.fb.pending ∧
    t.plat.log = s.plat.log ++ ks.map fun k => .beat (lineLong s.cache.fb.addr k)

/-- The wait ends with the step that brings the longword. -/
theorem State.awaited_of_arrival {s : State} {a : Long} {rest : List (BitVec 2)} (hp : s.cache.fb.pending = lwOf a :: rest)
    (hok : s.plat.busErrorAt (lineLong s.cache.fb.addr (lwOf a)) = false) (haddr : s.cache.fb.addr = lineOf a) :
    s.Awaited a s.fillStep := by
  have hstep := State.fillStep_ok hp hok
  refine ⟨by rw [hstep]; rfl, by rw [hstep]; rfl, ?_, ⟨_, le_rfl, ?_⟩, [lwOf a], by simp [hp], by simp [hstep]⟩
  · rw [State.fillStep_lwvalidAt hp hok, if_pos rfl]
  · rw [State.fillStep_dataAt hp hok, if_pos rfl, haddr, ← longBase_eq, Platform.externalRead_longword,
      Platform.deviceAt_longBase]

/-- Until then each step is one longword of the burst, and the wait goes on. -/
theorem State.Awaited.of_fillStep {s t : State} {a : Long} {k : BitVec 2} {rest : List (BitVec 2)}
    (hp : s.cache.fb.pending = k :: rest) (hok : s.plat.busErrorAt (lineLong s.cache.fb.addr k) = false)
    (h : s.fillStep.Awaited a t) : s.Awaited a t := by
  have hstep := State.fillStep_ok hp hok
  obtain ⟨n, hn, hvalue⟩ := h.value
  obtain ⟨ks, hks, hlog⟩ := h.log
  have haddr : s.fillStep.cache.fb.addr = s.cache.fb.addr := by rw [hstep]; rfl
  have hpending : s.fillStep.cache.fb.pending = rest := by rw [hstep]; rfl
  refine ⟨?_, h.addr.trans haddr, h.valid, ⟨n, ?_, ?_⟩, k :: ks, ?_, ?_⟩
  · rw [h.cache, hstep]
    rfl
  · refine le_trans ?_ hn
    rw [hstep]
    exact (s.plat.access _).le_touch_deviceAccesses _
  · rw [hvalue, hstep]
    simp
  · rw [hp]
    exact List.cons_prefix_cons.mpr ⟨rfl, hpending ▸ hks⟩
  · rw [hlog, haddr, hstep]
    simp

/-- On a bus without errors a longword of the buffered line that is pending arrives. -/
theorem State.awaited_awaitLongword {a : Long} (n : Nat) : ∀ s : State, s.cache.fb.pending.length ≤ n →
    s.plat.busErrors = [] → s.cache.fb.addr = lineOf a → s.cache.fb.lwvalidAt (lwOf a) = false →
    lwOf a ∈ s.cache.fb.pending → s.Awaited a (State.awaitLongword a n s) := by
  induction n with
  | zero =>
    intro s hn _ _ _ hmem
    rw [List.eq_nil_of_length_eq_zero (Nat.le_zero.mp hn)] at hmem
    cases hmem
  | succ n ih =>
    intro s hn herr haddr hinvalid hmem
    rw [State.awaitLongword, if_pos ((FillBuffer.onItsWay_iff _ _).mpr ⟨⟨haddr, hinvalid⟩, hmem⟩)]
    obtain ⟨k, rest, hp⟩ := List.exists_cons_of_ne_nil (List.ne_nil_of_mem hmem)
    have hok := Platform.busErrorAt_none herr (lineLong s.cache.fb.addr k)
    by_cases hk : k = lwOf a
    · subst hk
      have harrived : s.fillStep.cache.fb.lwvalidAt (lwOf a) = true := by
        rw [State.fillStep_lwvalidAt hp hok, if_pos rfl]
      have hstop : s.fillStep.cache.fb.onItsWay a = false := by
        simp [FillBuffer.onItsWay, harrived]
      rw [State.awaitLongword_of_not_onItsWay hstop]
      exact State.awaited_of_arrival hp hok haddr
    · have hinvalid' : s.fillStep.cache.fb.lwvalidAt (lwOf a) = false := by
        rw [State.fillStep_lwvalidAt hp hok, if_neg hk, hinvalid]
      have hpending : s.fillStep.cache.fb.pending = rest := by rw [State.fillStep_ok hp hok]; rfl
      have haddr' : s.fillStep.cache.fb.addr = s.cache.fb.addr := by rw [State.fillStep_ok hp hok]; rfl
      rw [hp, List.length_cons] at hn
      rw [hp, List.mem_cons] at hmem
      exact .of_fillStep hp hok (ih s.fillStep (by rw [hpending]; omega)
        (by rw [State.fillStep_ok hp hok]; simpa using herr) (haddr'.trans haddr) hinvalid'
        (by rw [hpending]; exact hmem.resolve_left (Ne.symm hk)))

end Sys2Proof.Machine

namespace Sys2Proof.Proofs

open Sys2Proof Sys2Proof.Machine

/-- Settles O24: the buffer is asked first. -/
theorem bufferHitAnswers : Obligations.BufferHitAnswers := by
  unfold Obligations.BufferHitAnswers
  intro s r hi hc hm he hpart haddr hvalid
  have hhit : s.cache.fb.hit r.addr = true := (FillBuffer.hit_iff _ _).mpr ⟨haddr, hvalid⟩
  rw [State.fetch_warm hi hm hc, State.cacheFetch_buffered he hpart, State.bufferedFetch_hit hhit]
  rfl

/-- Settles O25: the array's answer, whether the buffer takes part in the fetch or not. -/
theorem arrayHitAnswers : Obligations.ArrayHitAnswers := by
  unfold Obligations.ArrayHitAnswers
  intro s r hi hc hm he hmay hfb hvalid htag
  have hhit : s.cache.arrayHit r.addr = true := (Cache.arrayHit_iff _ _).mpr ⟨hvalid, htag⟩
  rw [State.fetch_warm hi hm hc, State.cacheFetch_arrayHit he hmay hfb hhit, State.answerArray_eq]
  rfl

/-- Settles O26: the wait ends with the longword there (`State.awaited_awaitLongword`), and the buffer answers. -/
theorem awaitedLongwordAnswers : Obligations.AwaitedLongwordAnswers := by
  unfold Obligations.AwaitedLongwordAnswers
  intro s r hi hc hm he hpart hsound haddr hmem herr
  have hwait := State.awaited_awaitLongword _ s le_rfl herr haddr (hsound.notYetValid _ hmem) hmem
  have hhit := (FillBuffer.hit_iff _ r.addr).mpr ⟨hwait.addr.trans haddr, hwait.valid⟩
  have hfetch : s.fetch r = (State.awaitLongword r.addr s.cache.fb.pending.length s).answerBuffer r.addr := by
    rw [State.fetch_warm hi hm hc, State.cacheFetch_buffered he hpart]
    exact if_pos hhit
  obtain ⟨n, hn, hvalue⟩ := hwait.value
  have hanswer : (s.fetch r).1 = .longword (if s.plat.deviceAt r.addr then Config.deviceAnswer n (longBase r.addr)
      else Memory.readLong s.plat.mem (longBase r.addr)) := by
    rw [hfetch, ← hvalue]
    rfl
  refine ⟨fun hd => ?_, fun hd => ⟨n, hn, ?_⟩, ?_⟩
  · rw [hanswer, hd]
    rfl
  · rw [hanswer, hd]
    rfl
  · rw [hfetch]
    refine ⟨hhit, rfl, hwait.addr, ?_, ?_, ?_, hwait.log⟩
    · exact (congrArg Cache.tag hwait.cache :)
    · exact (congrArg Cache.valid hwait.cache :)
    · exact (congrArg Cache.data hwait.cache :)

end Sys2Proof.Proofs

/-! SUPPORT. Misses, bursts and bus errors (41_fetch_linefill.md sections 3 to 6, 60_exceptions.md): a burst run to its end, the
buffer taken over and loaded, the line transfer, and the fetches that go past the cache. -/

namespace Sys2Proof.Machine

/-! ### A burst in progress (R92, R101) -/

/-- What the line-fill engine may change of the unit: the buffer, and of it not the line's address. -/
structure Cache.Filling (c d : Cache) : Prop where
  unit : d = { c with fb := d.fb }
  addr : d.fb.addr = c.fb.addr

theorem Cache.Filling.refl (c : Cache) : c.Filling c := ⟨rfl, rfl⟩

theorem Cache.Filling.trans {c d e : Cache} (h : c.Filling d) (k : d.Filling e) : c.Filling e := by
  refine ⟨?_, k.addr.trans h.addr⟩
  rw [k.unit, h.unit]

theorem State.filling_fillStep (s : State) : s.cache.Filling s.fillStep.cache := by
  obtain ⟨-, e⟩ | ⟨k, rest, -, ⟨-, e⟩ | ⟨-, e⟩⟩ := s.fillStep_cases <;> rw [e] <;> exact ⟨rfl, rfl⟩

/-- What every step of the engine keeps, several steps keep. -/
theorem State.fillSteps_keeps {P : State → Prop} (h : ∀ s, P s → P s.fillStep) (n : Nat) :
    ∀ s, P s → P (State.fillSteps n s) := by
  induction n with
  | zero => exact fun s hs => hs
  | succ n ih => exact fun s hs => ih _ (h s hs)

/-- What every step of the engine keeps, a wait for a longword keeps. -/
theorem State.awaitLongword_keeps {P : State → Prop} (h : ∀ s, P s → P s.fillStep) (a : Long) (n : Nat) :
    ∀ s, P s → P (State.awaitLongword a n s) := by
  induction n with
  | zero => exact fun s hs => hs
  | succ n ih =>
    intro s hs
    rw [State.awaitLongword]
    split
    · exact ih _ (h s hs)
    · exact hs

theorem State.filling_finishFill (s : State) : s.cache.Filling s.finishFill.cache :=
  State.fillSteps_keeps (P := fun t => s.cache.Filling t.cache) (fun t h => h.trans t.filling_fillStep) _ s (.refl _)

theorem State.filling_awaitLongword (a : Long) (n : Nat) (s : State) :
    s.cache.Filling (State.awaitLongword a n s).cache :=
  State.awaitLongword_keeps (P := fun t => s.cache.Filling t.cache) (fun t h => h.trans t.filling_fillStep) a n s (.refl _)

@[simp] theorem State.fillStep_busErrors (s : State) : s.fillStep.plat.busErrors = s.plat.busErrors := by
  obtain ⟨-, e⟩ | ⟨k, rest, -, ⟨-, e⟩ | ⟨-, e⟩⟩ := s.fillStep_cases <;> rw [e] <;> simp

@[simp] theorem State.finishFill_busErrorAt (s : State) (a : Long) :
    s.finishFill.plat.busErrorAt a = s.plat.busErrorAt a :=
  State.fillSteps_keeps (P := fun t => t.plat.busErrorAt a = s.plat.busErrorAt a)
    (fun t h => by rwa [Platform.busErrorAt, State.fillStep_busErrors]) _ s rfl

@[simp] theorem State.awaitLongword_busErrorAt (a b : Long) (n : Nat) (s : State) :
    (State.awaitLongword b n s).plat.busErrorAt a = s.plat.busErrorAt a :=
  State.awaitLongword_keeps (P := fun t => t.plat.busErrorAt a = s.plat.busErrorAt a)
    (fun t h => by rwa [Platform.busErrorAt, State.fillStep_busErrors]) b n s rfl

@[simp] theorem State.fillStep_sramMap (s : State) : s.fillStep.plat.sramMap = s.plat.sramMap := by
  obtain ⟨-, e⟩ | ⟨k, rest, -, ⟨-, e⟩ | ⟨-, e⟩⟩ := s.fillStep_cases <;> rw [e] <;> simp

@[simp] theorem State.finishFill_sramMaps (s : State) (r : Ref) :
    s.finishFill.plat.sramMaps r = s.plat.sramMaps r :=
  State.fillSteps_keeps (P := fun t => t.plat.sramMaps r = s.plat.sramMaps r)
    (fun t h => by rwa [Platform.sramMaps, State.fillStep_sramMap]) _ s rfl

/-- A step of the engine takes the first longword off the pending ones, or all of them. -/
theorem State.fillStep_pending_length (s : State) : s.fillStep.cache.fb.pending.length ≤ s.cache.fb.pending.length - 1 := by
  obtain ⟨hp, e⟩ | ⟨k, rest, hp, ⟨-, e⟩ | ⟨-, e⟩⟩ := s.fillStep_cases <;> rw [e] <;> simp [hp]

/-- Enough steps leave nothing pending. -/
theorem State.fillSteps_pending (n : Nat) : ∀ s : State, s.cache.fb.pending.length ≤ n →
    (State.fillSteps n s).cache.fb.pending = [] := by
  induction n with
  | zero => exact fun s h => List.eq_nil_of_length_eq_zero (Nat.le_zero.mp h)
  | succ n ih =>
    intro s h
    have hstep := s.fillStep_pending_length
    exact ih _ (by omega)

theorem State.finishFill_pending (s : State) : s.finishFill.cache.fb.pending = [] :=
  State.fillSteps_pending _ s le_rfl

/-- The buffer neither holds nor awaits the longword of an address. -/
def FillBuffer.Lacks (fb : FillBuffer) (a : Long) : Prop :=
  fb.addr = lineOf a → fb.lwvalidAt (lwOf a) = false ∧ lwOf a ∉ fb.pending

theorem FillBuffer.lacks_iff (fb : FillBuffer) (a : Long) : fb.Lacks a ↔ fb.hit a = false ∧ fb.onItsWay a = false := by
  simp only [FillBuffer.Lacks, ← Bool.not_eq_true, FillBuffer.hit_iff, FillBuffer.onItsWay_iff]
  cases fb.lwvalidAt (lwOf a) <;> by_cases h : fb.addr = lineOf a <;> simp [h]

/-- What a burst does not bring in, its steps do not make the buffer hold. -/
theorem State.lacks_fillStep {s : State} {a : Long} (h : s.cache.fb.Lacks a) : s.fillStep.cache.fb.Lacks a := by
  obtain ⟨-, e⟩ | ⟨k, rest, hp, ⟨-, e⟩ | ⟨hok, -⟩⟩ := s.fillStep_cases
  · rwa [e]
  · rw [e]
    exact fun haddr => ⟨(h haddr).1, List.not_mem_nil⟩
  · intro haddr
    obtain ⟨hinvalid, hmem⟩ := h (s.filling_fillStep.addr.symm.trans haddr)
    rw [hp, List.mem_cons, not_or] at hmem
    obtain ⟨hne, hrest⟩ := hmem
    rw [State.fillStep_lwvalidAt hp hok, if_neg (Ne.symm hne), State.fillStep_ok hp hok]
    exact ⟨hinvalid, hrest⟩

theorem State.lacks_finishFill {s : State} {a : Long} (h : s.cache.fb.Lacks a) : s.finishFill.cache.fb.Lacks a :=
  State.fillSteps_keeps (P := fun t => t.cache.fb.Lacks a) (fun _ ht => State.lacks_fillStep ht) _ s h

/-! ### A miss (R87) -/

/-- The old buffer judged for transfer and the buffer taken over by a miss (R91, R95). -/
def State.takeOver (s : State) (a : Long) (b : Bool) : State := { s with cache := s.cache.transfer.loadBuffer a b }

theorem State.takeOver_lwvalidAt (s : State) (a : Long) (b : Bool) (k : BitVec 2) :
    (s.takeOver a b).cache.fb.lwvalidAt k = false := look_replicate _ k _

theorem State.takeOver_pending (s : State) (a : Long) (b : Bool) : (s.takeOver a b).cache.fb.pending = [] := rfl

@[simp] theorem State.takeOver_plat (s : State) (a : Long) (b : Bool) : (s.takeOver a b).plat = s.plat := rfl

/-- The fetch size of a miss is the one CACR gives when the fetch is made (R89). -/
theorem State.miss_eq (s : State) (a : Long) (b : Bool) : s.miss a b =
    match fetchSize s.cache.clnf (lwOf a) with
    | .line => (s.finishFill.takeOver a b).lineFetch a
    | .longword => (s.finishFill.takeOver a b).longwordFetch a := by
  have hclnf : (s.finishFill.takeOver a b).cache.clnf = s.cache.clnf := by
    rw [Cache.clnf, State.takeOver, Cache.loadBuffer_cacr, Cache.transfer_cacr, s.filling_finishFill.unit, Cache.clnf]
  rw [State.miss, ← hclnf]
  rfl

/-- A miss is a line fetch or a longword fetch into the buffer taken over. -/
theorem State.miss_cases (s : State) (a : Long) (b : Bool) :
    s.miss a b = (s.finishFill.takeOver a b).lineFetch a ∨ s.miss a b = (s.finishFill.takeOver a b).longwordFetch a := by
  rw [State.miss_eq]
  split
  · exact .inl rfl
  · exact .inr rfl

/-- What the buffer neither holds nor awaits and the array may not answer is a miss (R83, R87, R97). -/
theorem State.bufferedFetch_miss {s : State} {a : Long} {b : Bool} (h : s.cache.fb.Lacks a)
    (ha : s.cache.arrayHit a = false ∨ (b = false ∧ Config.noncacheableHitsArray = false)) :
    s.bufferedFetch a b = s.miss a b := by
  obtain ⟨hb, hw⟩ := (FillBuffer.lacks_iff _ _).mp h
  have hno : (s.cache.arrayHit a && (b || Config.noncacheableHitsArray)) = false := by
    obtain ha | ⟨hc, hn⟩ := ha
    · rw [ha, Bool.false_and]
    · rw [hc, hn, Bool.false_or, Bool.and_false]
  simp only [State.bufferedFetch, State.awaitLongword_of_not_onItsWay hw, hb, hno, Bool.false_eq_true, if_false]

/-- With nothing pending, what the buffer does not hold it lacks. -/
theorem FillBuffer.lacks_of_idle {fb : FillBuffer} {a : Long} (hb : fb.hit a = false) (hp : fb.pending = []) : fb.Lacks a :=
  (FillBuffer.lacks_iff fb a).mpr ⟨hb, by simp [FillBuffer.onItsWay, hp]⟩

/-- Of a buffer with no longword valid, exactly the one that arrives is. -/
theorem FillBuffer.arrive_lwvalidAt_of_none {fb : FillBuffer} (h : ∀ k, fb.lwvalidAt k = false) (k j : BitVec 2) (v : Long) :
    (fb.arrive k v).lwvalidAt j = decide (j = k) := by
  rw [FillBuffer.arrive_lwvalidAt, h]
  simp only [eq_comm (a := k), Bool.if_false_right, Bool.and_true]

/-- A miss by a fetch that the buffer takes part in, with no burst in progress. -/
theorem State.fetch_miss {s : State} {r : Ref} (hi : s.cache.invLeft = 0) (hc : s.cache.cold = false)
    (hm : s.plat.sramMaps r = false) (he : s.cache.cenb = true)
    (hpart : (s.cache.effAttr r).cacheable = true ∨ s.cache.ceib = true) (hlacks : s.cache.fb.Lacks r.addr)
    (ha : s.cache.arrayHit r.addr = false ∨
      ((s.cache.effAttr r).cacheable = false ∧ Config.noncacheableHitsArray = false)) :
    s.fetch r = s.miss r.addr (s.cache.effAttr r).cacheable := by
  rw [State.fetch_warm hi hm hc, State.cacheFetch_buffered he hpart, State.bufferedFetch_miss hlacks ha]

/-- The miss waits for the burst: made before its end it is the miss made after it (R101, D11). -/
theorem State.miss_finishFill (s : State) (a : Long) (b : Bool) : s.finishFill.miss a b = s.miss a b := by
  have hclnf : s.finishFill.cache.clnf = s.cache.clnf := by rw [s.filling_finishFill.unit]; rfl
  rw [State.miss_eq, State.miss_eq, State.finishFill_idle _ s.finishFill_pending, hclnf]

/-- So is the fetch past the hold that misses while a burst is in progress. -/
theorem State.cacheFetch_finishFill {s : State} {r : Ref} (he : s.cache.cenb = true)
    (hpart : (s.cache.effAttr r).cacheable = true ∨ s.cache.ceib = true) (hlacks : s.cache.fb.Lacks r.addr)
    (ha : s.cache.arrayHit r.addr = false ∨
      ((s.cache.effAttr r).cacheable = false ∧ Config.noncacheableHitsArray = false)) :
    s.finishFill.cacheFetch r = s.cacheFetch r := by
  have hunit := s.filling_finishFill.unit
  have hattr : s.finishFill.cache.effAttr r = s.cache.effAttr r := by rw [hunit]; rfl
  have hceib : s.finishFill.cache.ceib = s.cache.ceib := by rw [hunit]; rfl
  have hcenb : s.finishFill.cache.cenb = s.cache.cenb := by rw [hunit]; rfl
  have hhit : s.finishFill.cache.arrayHit r.addr = s.cache.arrayHit r.addr := by rw [hunit]; rfl
  rw [State.cacheFetch_buffered he hpart, State.bufferedFetch_miss hlacks ha, ← State.miss_finishFill, ← hattr]
  rw [← hattr, ← hhit] at ha
  rw [← hattr, ← hceib] at hpart
  rw [State.cacheFetch_buffered (hcenb.trans he) hpart, State.bufferedFetch_miss (State.lacks_finishFill hlacks) ha]

/-! ### A miss that ends in a bus error (R133, D21) -/

/-- An external fetch into a buffer with nothing valid and nothing pending, ended by a bus error, leaves it so. -/
theorem State.miss_error {s : State} {a : Long} (h : s.plat.busErrorAt a = true) (b : Bool) :
    (s.miss a b).1 = .busError ∧ (s.miss a b).2.cache = (s.finishFill.takeOver a b).cache := by
  have herr : (s.finishFill.takeOver a b).plat.busErrorAt a = true := by simpa using h
  obtain e | e := s.miss_cases a b
  · rw [e, State.lineFetch_error herr]
    exact ⟨rfl, rfl⟩
  · rw [e, State.longwordFetch_error herr]
    exact ⟨rfl, rfl⟩

/-- A miss with no bus error at its address is answered. -/
theorem State.miss_ok {s : State} {a : Long} (h : s.plat.busErrorAt a = false) (b : Bool) : (s.miss a b).1 ≠ .busError := by
  have hok : (s.finishFill.takeOver a b).plat.busErrorAt a = false := by simpa using h
  obtain e | e := s.miss_cases a b
  · rw [e, State.lineFetch_ok hok]
    exact Fetched.noConfusion
  · rw [e, State.longwordFetch_ok hok]
    exact Fetched.noConfusion

theorem State.uncachedFetch_error {s : State} {r : Ref} (h : s.plat.busErrorAt r.addr = true) :
    (s.uncachedFetch r).1 = .busError ∧ (s.uncachedFetch r).2.cache = s.cache := by
  rw [State.uncachedFetch_eq]
  split
  · rw [State.extWord_error h]
    exact ⟨rfl, rfl⟩
  · rw [State.extLongword_error h]
    exact ⟨rfl, rfl⟩

/-- A fetch past the hold and the SRAM module ends in a bus error only where its address is in error. -/
theorem State.cacheFetch_ok {s : State} {r : Ref} (h : s.plat.busErrorAt r.addr = false) :
    (s.cacheFetch r).1 ≠ .busError := by
  simp only [State.cacheFetch, State.bufferedFetch, State.noncacheableFetch]
  split
  · split
    · split
      · exact Fetched.noConfusion
      · split
        · exact Fetched.noConfusion
        · exact State.miss_ok (by simpa using h) _
    · split
      · exact Fetched.noConfusion
      · rw [State.extLongword_ok h]
        exact Fetched.noConfusion
  · rw [State.uncachedFetch_eq]
    split
    · rw [State.extWord_ok h]
      exact Fetched.noConfusion
    · rw [State.extLongword_ok h]
      exact Fetched.noConfusion

/-! ### The answer of a cold unit (R53, R147) -/

/-- A bus error stays; any other answer becomes the next free value, which is drawn. -/
theorem coldAnswer_cases (o : Fetched × State) : (o.1 = .busError ∧ coldAnswer o = o) ∨
    (o.1 ≠ .busError ∧ coldAnswer o =
      (.longword (Config.anyLongword o.2.draws), { o.2 with draws := o.2.draws + 1 })) := by
  obtain ⟨f, t⟩ := o
  cases f with
  | longword v => exact .inr ⟨Fetched.noConfusion, rfl⟩
  | word w => exact .inr ⟨Fetched.noConfusion, rfl⟩
  | busError => exact .inl ⟨rfl, rfl⟩

/-- A fetch past the hold draws nothing. -/
theorem State.cacheFetch_draws (s : State) (r : Ref) : (s.cacheFetch r).2.draws = s.draws :=
  State.cacheFetch_part (·.draws) (fun _ _ => rfl) (fun _ _ => rfl) (fun _ => rfl) s r

/-! ### The line transfer (R95, R96) -/

/-- The four conditions of the transfer. -/
theorem Cache.transferAllowed_iff (c : Cache) : c.transferAllowed = true ↔
    (∀ k, c.fb.lwvalidAt k = true) ∧ c.fb.mru = true ∧ c.fb.cacheable = true ∧
      (c.cfrz = false ∨ c.validAt c.fb.idx = false) := by
  simp only [Cache.transferAllowed, Bool.and_eq_true, FillBuffer.entire_iff, Bool.or_eq_true, Bool.not_eq_true', and_assoc]

/-- A transfer that is allowed. -/
theorem Cache.transfer_of_allowed {c : Cache} (h : c.transferAllowed = true) : c.transfer = { c with
    tag := put c.tag c.fb.idx c.fb.tag, valid := put c.valid c.fb.idx true, data := putLine c.data c.fb.idx c.fb } :=
  if_pos h

theorem Cache.transfer_validAt {c : Cache} (h : c.transferAllowed = true) (i : BitVec 5) :
    c.transfer.validAt i = if i = c.fb.idx then true else c.validAt i := by
  simp only [Cache.transfer_of_allowed h, Cache.validAt, look_put, eq_comm (a := c.fb.idx)]

theorem Cache.transfer_tagAt {c : Cache} (h : c.transferAllowed = true) (i : BitVec 5) :
    c.transfer.tagAt i = if i = c.fb.idx then c.fb.tag else c.tagAt i := by
  simp only [Cache.transfer_of_allowed h, Cache.tagAt, look_put, eq_comm (a := c.fb.idx)]

theorem Cache.transfer_dataAt {c : Cache} (h : c.transferAllowed = true) (i : BitVec 5) (k : BitVec 2) :
    c.transfer.dataAt (dataIndex i k) = if i = c.fb.idx then c.fb.dataAt k else c.dataAt (dataIndex i k) := by
  simp only [Cache.transfer_of_allowed h, Cache.dataAt, putLine_dataIndex, eq_comm (a := c.fb.idx)]

/-! ### The core's fetch of its next words -/

/-- The core's own fetch answered with a bus error is a fault (R133, log 18). -/
theorem State.fetchAhead_fault {s : State} (heven : s.core.streamEnd.getLsbD 0 = false)
    (h : (s.fetch (s.core.fetchRef s.core.streamEnd)).1 = .busError) : s.fetchAhead = .fault .fetchBusError := by
  obtain ⟨t, hfetch⟩ : ∃ t, s.fetch (s.core.fetchRef s.core.streamEnd) = (.busError, t) := ⟨_, Prod.ext h rfl⟩
  rw [State.fetchAhead]
  simp only [heven, hfetch, Bool.false_eq_true, if_false]

/-- With fewer words held than the instruction needs, a fault of the first fetch is the step's. -/
theorem step_fault_of_fetchAhead {s : State} {e : Fault} (ha : s.agenda = [])
    (hn : s.core.prefetch.length < wordsNeeded s.core.prefetch) (h : s.fetchAhead = .fault e) : step s = .fault e := by
  have hensure {n fuel : Nat} (hlt : s.core.prefetch.length < n) : State.ensureWords n (fuel + 1) s = .fault e := by
    simp only [State.ensureWords, Nat.not_le.mpr hlt, if_false, h]
  have hfetch : s.fetchInstruction = .fault e := by
    by_cases h1 : 1 ≤ s.core.prefetch.length
    · simp only [State.fetchInstruction, State.ensureWords_held h1, hensure hn]
    · simp only [State.fetchInstruction, hensure (Nat.not_le.mp h1)]
  rw [step, State.nextMove, ha]
  simp only [State.instructionStep, hfetch]

end Sys2Proof.Machine

namespace Sys2Proof.Proofs

open Sys2Proof Sys2Proof.Machine

/-- Settles O29: the miss is a line fetch into the buffer taken over. -/
theorem lineMissLoadsBuffer : Obligations.LineMissLoadsBuffer := by
  unfold Obligations.LineMissLoadsBuffer
  intro s r hi hc hm he hpart hb hp ha hw herr hsize
  have hmiss : s.fetch r = (s.takeOver r.addr (s.cache.effAttr r).cacheable).lineFetch r.addr := by
    rw [State.fetch_miss hi hc hm he hpart (FillBuffer.lacks_of_idle hb hp) ha, State.miss_eq, State.finishFill_idle s hp]
    simp only [Cache.clnf, hsize]
  have herr' : (s.takeOver r.addr (s.cache.effAttr r).cacheable).plat.busErrorAt r.addr = false := herr
  rw [hmiss, State.lineFetch_ok herr', State.takeOver_plat, Platform.settleWrites_nil _ hw]
  refine ⟨_, rfl, rfl, rfl, ?_, ?_, rfl, rfl, rfl, ?_⟩
  · exact fun k => FillBuffer.arrive_lwvalidAt_of_none (State.takeOver_lwvalidAt s _ _) _ k
      (s.plat.externalRead (longBase r.addr) .longword)
  · exact (FillBuffer.arrive_dataAt _ _ _ _).trans (if_pos rfl)
  · simp only [Platform.access, List.append_assoc, List.cons_append, List.nil_append]
    rfl

/-- Settles O30: the miss is a longword fetch into the buffer taken over. -/
theorem longwordMissLoadsOne : Obligations.LongwordMissLoadsOne := by
  unfold Obligations.LongwordMissLoadsOne
  intro s r hi hc hm he hpart hb hp ha hw herr hsize
  have hmiss : s.fetch r = (s.takeOver r.addr (s.cache.effAttr r).cacheable).longwordFetch r.addr := by
    rw [State.fetch_miss hi hc hm he hpart (FillBuffer.lacks_of_idle hb hp) ha, State.miss_eq, State.finishFill_idle s hp]
    simp only [Cache.clnf, hsize]
  have herr' : (s.takeOver r.addr (s.cache.effAttr r).cacheable).plat.busErrorAt r.addr = false := herr
  rw [hmiss, State.longwordFetch_ok herr', State.takeOver_plat, Platform.settleWrites_nil _ hw]
  refine ⟨_, rfl, rfl, rfl, ?_, ?_, rfl, rfl, rfl, rfl⟩
  · exact fun k => FillBuffer.arrive_lwvalidAt_of_none (State.takeOver_lwvalidAt s _ _) _ k
      (s.plat.externalRead (longBase r.addr) .longword)
  · exact (FillBuffer.arrive_dataAt _ _ _ _).trans (if_pos rfl)

/-- Settles O31: the burst brings nothing that the fetch asks for, so the fetch is a miss before its end and after it. -/
theorem missWaitsForBurst : Obligations.MissWaitsForBurst := by
  unfold Obligations.MissWaitsForBurst
  intro s r hi hm he hpart hb hw ha
  refine ⟨s.finishFill_pending, ?_⟩
  have hlacks := (FillBuffer.lacks_iff _ _).mpr ⟨hb, hw⟩
  have hunit := s.filling_finishFill.unit
  have hcenb : s.finishFill.cache.cenb = s.cache.cenb := by rw [hunit]; rfl
  have hcold : s.finishFill.cache.cold = s.cache.cold := by rw [hunit]
  have hidle : s.finishFill.cache.invLeft = 0 := by rw [hunit]; exact hi
  rw [State.fetch_idle hi hm, State.fetch_idle hidle (by rwa [State.finishFill_sramMaps]), hcenb, hcold,
    State.cacheFetch_finishFill he hpart hlacks ha]

/-- Settles O32: the step of the engine with no bus error, field by field. -/
theorem fillStepBringsLongword : Obligations.FillStepBringsLongword := by
  unfold Obligations.FillStepBringsLongword
  intro s k rest hp herr
  have hstep := State.fillStep_ok hp herr
  refine ⟨s.filling_fillStep.unit, by rw [hstep]; rfl, fun j => ?_, fun j => ?_, by rw [hstep]; rfl,
    s.filling_fillStep.addr, by rw [hstep]; rfl, by rw [hstep]; rfl⟩
  · simp only [State.fillStep_lwvalidAt hp herr, eq_comm (a := k), Bool.if_true_left]
  · simp only [State.fillStep_dataAt hp herr, eq_comm (a := k)]

/-- Settles O33: a burst's longword, a miss, a fetch past the cache and the core's own fetch, each ended by a bus error. -/
theorem busErrorValidatesNothing : Obligations.BusErrorValidatesNothing := by
  unfold Obligations.BusErrorValidatesNothing
  refine ⟨fun s k rest hp herr => ?_, fun s a b herr => ?_, fun s r hi hm herr hpast => ?_, fun s heven herr => ?_⟩
  · simp [State.fillStep, hp, herr]
  · obtain ⟨hanswer, hcache⟩ := State.miss_error herr b
    rw [hcache]
    exact ⟨hanswer, State.takeOver_lwvalidAt _ _ _, State.takeOver_pending _ _ _⟩
  · have hpast' : (s.cacheFetch r).1 = .busError ∧ (s.cacheFetch r).2.cache = s.cache := by
      obtain he | ⟨he, hc, hb, ha⟩ := hpast
      · have hcf : s.cacheFetch r = s.uncachedFetch r := by simp [State.cacheFetch, he]
        rw [hcf]
        exact State.uncachedFetch_error herr
      · rw [State.cacheFetch_unbuffered he hc hb, State.noncacheableFetch_external ha, State.extLongword_error herr]
        exact ⟨rfl, rfl⟩
    have hcold : coldAnswer (s.cacheFetch r) = s.cacheFetch r := by
      obtain ⟨-, e⟩ | ⟨hne, -⟩ := coldAnswer_cases (s.cacheFetch r)
      · exact e
      · exact absurd hpast'.1 hne
    rw [State.fetch_idle hi hm, hcold, ite_self]
    exact hpast'
  · have hfault := State.fetchAhead_fault heven herr
    exact ⟨hfault, fun ha hn => step_fault_of_fetchAhead ha hn hfault⟩

/-- Settles O34: the conditions are those of `Cache.transferAllowed_iff`. -/
theorem transferReplacesOneLine : Obligations.TransferReplacesOneLine := by
  unfold Obligations.TransferReplacesOneLine
  refine fun c => ⟨fun h => ?_, fun h => ?_⟩
  · have hallowed := c.transferAllowed_iff.mpr h
    refine ⟨Cache.transfer_validAt hallowed, Cache.transfer_tagAt hallowed, Cache.transfer_dataAt hallowed, ?_⟩
    rw [Cache.transfer_of_allowed hallowed]
  · exact if_neg fun hallowed => h (c.transferAllowed_iff.mp hallowed)

/-- Settles O38: the two sizes of an external fetch. -/
theorem disabledCacheGoesToMemory : Obligations.DisabledCacheGoesToMemory := by
  unfold Obligations.DisabledCacheGoesToMemory
  intro s r hi hm he hw herr
  rw [State.fetch_disabled hi hm he, State.uncachedFetch_eq, State.extWord_ok herr, State.extLongword_ok herr,
    Platform.settleWrites_nil _ hw]
  rfl

/-- Settles O39: past the buffer, to the external bus or to the array as the open parameter says. -/
theorem noncacheableWithoutBursting : Obligations.NoncacheableWithoutBursting := by
  unfold Obligations.NoncacheableWithoutBursting
  intro s r hi hc hm he hnc hb hw herr
  rw [State.fetch_warm hi hm hc, State.cacheFetch_unbuffered he hnc hb]
  refine ⟨fun h => ?_, fun ⟨ha, hn⟩ => ?_⟩
  · rw [State.noncacheableFetch_external h, State.extLongword_ok herr, Platform.settleWrites_nil _ hw]
    rfl
  · rw [State.noncacheableFetch_arrayHit ha hn, State.answerArray_eq]
    rfl

/-- Settles O41: `coldAnswer_cases`, and on a bus without errors only its second case. -/
theorem coldFetchReturnsFreeValue : Obligations.ColdFetchReturnsFreeValue := by
  unfold Obligations.ColdFetchReturnsFreeValue
  intro s r hi hm he hc
  have hfetch : s.fetch r = coldAnswer (s.cacheFetch r) := by simp [State.fetch_idle hi hm, he, hc]
  rw [hfetch, ← s.cacheFetch_draws r]
  obtain ⟨hbus, e⟩ | ⟨-, e⟩ := coldAnswer_cases (s.cacheFetch r)
  · exact ⟨fun herr => absurd hbus (State.cacheFetch_ok (Platform.busErrorAt_none herr _)), .inl (by rw [e, hbus])⟩
  · rw [e]
    exact ⟨fun _ => ⟨rfl, rfl⟩, .inr ⟨rfl, rfl⟩⟩

end Sys2Proof.Proofs

/-! SUPPORT. What a fetch leaves unchanged (41_fetch_linefill.md section 7, 70_reset_and_hazards.md section 1): the registers, the
core, memory, and all of the array but the line at the buffer's index. -/

namespace Sys2Proof.Machine

/-! ### The unit after a fetch -/

/-- What a fetch past the hold may do to the unit: it has another buffer, and before that the line transfer may have judged the
buffer of the burst in progress. -/
inductive Cache.FetchChange (c d : Cache) : Prop
  | buffer (h : d = { c with fb := d.fb })
  | transfer (fb : FillBuffer) (haddr : fb.addr = c.fb.addr)
      (h : d = { ({ c with fb := fb } : Cache).transfer with fb := d.fb })

theorem Cache.FetchChange.refl (c : Cache) : c.FetchChange c := .buffer rfl

/-- A new buffer after a burst's steps. -/
theorem Cache.FetchChange.of_filling {c d e : Cache} (h : c.Filling d) (he : e = { d with fb := e.fb }) :
    c.FetchChange e := by
  refine .buffer ?_
  rw [he, h.unit]

theorem State.extLongword_cache (s : State) (a : Long) : (s.extLongword a).2.cache = s.cache := by
  obtain ⟨-, e⟩ | ⟨-, e⟩ := s.extLongword_cases a <;> rw [e]

theorem State.extWord_cache (s : State) (a : Long) : (s.extWord a).2.cache = s.cache := by
  cases h : s.plat.busErrorAt a
  · rw [State.extWord_ok h]
  · rw [State.extWord_error h]

theorem State.uncachedFetch_cache (s : State) (r : Ref) : (s.uncachedFetch r).2.cache = s.cache := by
  rw [State.uncachedFetch_eq]
  split
  · exact s.extWord_cache _
  · exact s.extLongword_cache _

theorem State.lineFetch_cache (s : State) (a : Long) :
    (s.lineFetch a).2.cache = { s.cache with fb := (s.lineFetch a).2.cache.fb } := by
  cases h : s.plat.busErrorAt a
  · rw [State.lineFetch_ok h]
    rfl
  · rw [State.lineFetch_error h]

theorem State.longwordFetch_cache (s : State) (a : Long) :
    (s.longwordFetch a).2.cache = { s.cache with fb := (s.longwordFetch a).2.cache.fb } := by
  cases h : s.plat.busErrorAt a
  · rw [State.longwordFetch_ok h]
    rfl
  · rw [State.longwordFetch_error h]

/-- A miss transfers the buffer as the burst in progress leaves it, and takes a new one over. -/
theorem State.miss_cache (s : State) (a : Long) (b : Bool) :
    (s.miss a b).2.cache = { s.finishFill.cache.transfer with fb := (s.miss a b).2.cache.fb } := by
  obtain e | e := s.miss_cases a b
  · rw [e, State.lineFetch_cache]
    rfl
  · rw [e, State.longwordFetch_cache]
    rfl

theorem State.answerArray_cache (s : State) (a : Long) :
    (s.answerArray a).2.cache = { s.cache with fb := (s.answerArray a).2.cache.fb } := by
  rw [State.answerArray_eq]

theorem State.fetchChange_bufferedFetch (s : State) (a : Long) (b : Bool) :
    s.cache.FetchChange (s.bufferedFetch a b).2.cache := by
  have hwait := State.filling_awaitLongword a s.cache.fb.pending.length s
  simp only [State.bufferedFetch]
  split
  · exact .of_filling hwait rfl
  · split
    · exact .of_filling hwait (State.answerArray_cache _ _)
    · have hfill := hwait.trans (State.filling_finishFill _)
      refine .transfer _ hfill.addr ?_
      rw [← hfill.unit]
      exact State.miss_cache _ _ _

theorem State.fetchChange_cacheFetch (s : State) (r : Ref) : s.cache.FetchChange (s.cacheFetch r).2.cache := by
  simp only [State.cacheFetch]
  split
  · split
    · exact s.fetchChange_bufferedFetch _ _
    · simp only [State.noncacheableFetch]
      split
      · exact .buffer (State.answerArray_cache _ _)
      · rw [State.extLongword_cache]
        exact .refl _
  · rw [State.uncachedFetch_cache]
    exact .refl _

/-- With no sequence running a fetch changes the unit only so. -/
theorem State.fetchChange_fetch {s : State} (hi : s.cache.invLeft = 0) (r : Ref) :
    s.cache.FetchChange (s.fetch r).2.cache := by
  have hpast := s.fetchChange_cacheFetch r
  cases hm : s.plat.sramMaps r
  · rw [State.fetch_idle hi hm]
    split
    · obtain e | e := coldAnswer_state (s.cacheFetch r) <;> rw [e] <;> exact hpast
    · exact hpast
  · rw [State.fetch_sram hi hm]
    exact .refl _

/-- An entry of the array is the same in two units: its valid bit, its tag and its four longwords. -/
structure Cache.SameEntry (c d : Cache) (i : BitVec 5) : Prop where
  valid : d.validAt i = c.validAt i
  tag : d.tagAt i = c.tagAt i
  data : ∀ k, d.dataAt (dataIndex i k) = c.dataAt (dataIndex i k)

theorem Cache.sameEntry_of_buffer {c d : Cache} (h : d = { c with fb := d.fb }) (i : BitVec 5) : c.SameEntry d i := by
  rw [h]
  exact ⟨rfl, rfl, fun _ => rfl⟩

theorem Cache.SameEntry.trans {c d e : Cache} {i : BitVec 5} (h : c.SameEntry d i) (k : d.SameEntry e i) : c.SameEntry e i :=
  ⟨k.valid.trans h.valid, k.tag.trans h.tag, fun l => (k.data l).trans (h.data l)⟩

/-- The transfer leaves every entry but the one at the buffer's index, and with CFRZ = 1 that one too if it is valid (R96). -/
theorem Cache.sameEntry_transfer {c : Cache} {i : BitVec 5}
    (h : i ≠ c.fb.idx ∨ (c.cfrz = true ∧ c.validAt i = true)) : c.SameEntry c.transfer i := by
  cases hallowed : c.transferAllowed
  · obtain ⟨hyes, -⟩ | ⟨-, e⟩ := c.transfer_cases
    · rw [hallowed] at hyes
      cases hyes
    · rw [e]
      exact ⟨rfl, rfl, fun _ => rfl⟩
  · have hne : i ≠ c.fb.idx := by
      rintro rfl
      obtain hne | ⟨hfrozen, hvalid⟩ := h
      · exact hne rfl
      · obtain ⟨-, -, -, hfree⟩ := c.transferAllowed_iff.mp hallowed
        simp [hfrozen, hvalid] at hfree
    refine ⟨?_, ?_, fun k => ?_⟩
    · rw [Cache.transfer_validAt hallowed, if_neg hne]
    · rw [Cache.transfer_tagAt hallowed, if_neg hne]
    · rw [Cache.transfer_dataAt hallowed, if_neg hne]

/-- The transfer clears no valid bit. -/
theorem Cache.transfer_validAt_of_valid {c : Cache} {i : BitVec 5} (h : c.validAt i = true) :
    c.transfer.validAt i = true := by
  obtain ⟨hallowed, -⟩ | ⟨-, e⟩ := c.transfer_cases
  · rw [Cache.transfer_validAt hallowed, h, ite_self]
  · rwa [e]

theorem Cache.FetchChange.sameEntry {c d : Cache} {i : BitVec 5} (hchange : c.FetchChange d)
    (h : i ≠ c.fb.idx ∨ (c.cfrz = true ∧ c.validAt i = true)) : c.SameEntry d i := by
  cases hchange with
  | buffer e => exact Cache.sameEntry_of_buffer e i
  | transfer fb haddr e =>
    have hidx : fb.idx = c.fb.idx := by rw [FillBuffer.idx, haddr, FillBuffer.idx]
    have hjudged : ({ c with fb := fb } : Cache).SameEntry ({ c with fb := fb } : Cache).transfer i :=
      Cache.sameEntry_transfer (by rw [hidx]; exact h)
    exact (Cache.sameEntry_of_buffer (d := { c with fb := fb }) rfl i).trans
      (hjudged.trans (Cache.sameEntry_of_buffer e i))

theorem Cache.FetchChange.validAt {c d : Cache} {i : BitVec 5} (hchange : c.FetchChange d) (h : c.validAt i = true) :
    d.validAt i = true := by
  cases hchange with
  | buffer e =>
    rw [e]
    exact h
  | transfer fb haddr e =>
    rw [e]
    exact Cache.transfer_validAt_of_valid (c := { c with fb := fb }) h

/-! ### The registers, the core and the SRAM module -/

theorem State.fetch_cacr (s : State) (r : Ref) : (s.fetch r).2.cache.cacr = s.cache.cacr := by
  rw [State.fetch_part (·.cache.cacr) (fun _ _ => rfl) (fun _ _ => rfl) (fun t => t.cache.transfer_cacr) (fun _ _ => rfl)]
  exact s.cache.finishInvalidate_cacr _

theorem State.fetch_acr0 (s : State) (r : Ref) : (s.fetch r).2.cache.acr0 = s.cache.acr0 := by
  rw [State.fetch_part (·.cache.acr0) (fun _ _ => rfl) (fun _ _ => rfl) (fun t => t.cache.transfer_acr0) (fun _ _ => rfl)]
  exact s.cache.finishInvalidate_acr0 _

theorem State.fetch_acr1 (s : State) (r : Ref) : (s.fetch r).2.cache.acr1 = s.cache.acr1 := by
  rw [State.fetch_part (·.cache.acr1) (fun _ _ => rfl) (fun _ _ => rfl) (fun t => t.cache.transfer_acr1) (fun _ _ => rfl)]
  exact s.cache.finishInvalidate_acr1 _

/-- A part of the state beside the unit, the bus side and the draws is as before a fetch. -/
theorem State.fetch_other {α : Type} (part : State → α) (hcache : ∀ s c, part { s with cache := c } = part s)
    (hplat : ∀ s p, part { s with plat := p } = part s) (hdraw : ∀ (s : State) (n : Nat), part { s with draws := n } = part s)
    (s : State) (r : Ref) : part (s.fetch r).2 = part s := by
  rw [State.fetch_part part hplat (fun t fb => hcache t { t.cache with fb := fb }) (fun t => hcache t _) hdraw]
  exact hcache s _

theorem State.fetch_core (s : State) (r : Ref) : (s.fetch r).2.core = s.core :=
  State.fetch_other (·.core) (fun _ _ => rfl) (fun _ _ => rfl) (fun _ _ => rfl) s r

theorem State.fetch_agenda (s : State) (r : Ref) : (s.fetch r).2.agenda = s.agenda :=
  State.fetch_other (·.agenda) (fun _ _ => rfl) (fun _ _ => rfl) (fun _ _ => rfl) s r

theorem State.fetch_reply (s : State) (r : Ref) : (s.fetch r).2.reply = s.reply :=
  State.fetch_other (·.reply) (fun _ _ => rfl) (fun _ _ => rfl) (fun _ _ => rfl) s r

theorem State.fetch_raised (s : State) (r : Ref) : (s.fetch r).2.raised = s.raised :=
  State.fetch_other (·.raised) (fun _ _ => rfl) (fun _ _ => rfl) (fun _ _ => rfl) s r

/-- What the bus side's changes keep of it, a fetch keeps. -/
theorem State.fetch_plat_keeps {P : Platform → Prop} (hsettle : ∀ p, P p → P p.settleWrites)
    (haccess : ∀ p x, P p → P (p.access x)) (htouch : ∀ p a, P p → P (p.touch a)) (s : State) (r : Ref) (hs : P s.plat) :
    P (s.fetch r).2.plat :=
  fetch_keeps (P := fun t => P t.plat)
    (FetchClosed.of_changes (fun _ h => hsettle _ h) (fun _ _ h => haccess _ _ h) (fun _ _ h => htouch _ _ h)
      (fun _ _ h => h) (fun _ h => h))
    (fun _ h => h) (fun _ h => h) s r hs

theorem State.fetch_sram_contents (s : State) (r : Ref) : (s.fetch r).2.plat.sram = s.plat.sram :=
  State.fetch_plat_keeps (P := fun p => p.sram = s.plat.sram) (fun p h => by rwa [Platform.settleWrites_sram])
    (fun _ _ h => h) (fun p a h => by rwa [Platform.touch_sram]) s r rfl

/-- With no buffered write a fetch leaves memory and buffers none. -/
theorem State.fetch_mem {s : State} (hw : s.plat.wbuf = []) (r : Ref) :
    (s.fetch r).2.plat.wbuf = [] ∧ (s.fetch r).2.plat.mem = s.plat.mem :=
  State.fetch_plat_keeps (P := fun p => p.wbuf = [] ∧ p.mem = s.plat.mem)
    (fun p h => by rwa [Platform.settleWrites_nil p h.1]) (fun _ _ h => h)
    (fun p a h => by rwa [Platform.touch_wbuf, Platform.touch_mem]) s r ⟨hw, rfl⟩

/-- The bus side is as in `p` but for the log of accesses. -/
def Platform.LogOnly (p q : Platform) : Prop := q = { p with log := q.log }

/-- With no device and no buffered write a fetch changes of the bus side the log alone. -/
theorem State.fetch_logOnly {s : State} (hw : s.plat.wbuf = []) (hd : s.plat.devices = []) (r : Ref) :
    s.plat.LogOnly (s.fetch r).2.plat := by
  refine State.fetch_plat_keeps (P := fun p => s.plat.LogOnly p) (fun p h => ?_) (fun p x h => ?_) (fun p a h => ?_) s r rfl
  · have hnone : p.wbuf = [] := by rw [h]; exact hw
    rwa [Platform.settleWrites_nil p hnone]
  · rw [Platform.LogOnly, Platform.access, h]
  · have hnone : p.devices = [] := by rw [h]; exact hd
    rwa [Platform.touch_none p a (p.deviceAt_none a hnone)]

/-! ### After a hardware reset (R146) -/

theorem acrMatch_zero (r : Ref) : acrMatch 0#32 r = false := rfl

theorem Cache.hardwareReset_effAttr (c : Cache) (n : Nat) (r : Ref) :
    (c.hardwareReset n).effAttr r = { cacheable := true, bufwrite := false, wp := false } := by
  rw [Cache.effAttr_of_no_acr (by rw [Cache.hardwareReset_acr0, acrMatch_zero])
    (by rw [Cache.hardwareReset_acr1, acrMatch_zero]), Cache.defaultAttr_eq, Cache.hardwareReset_cacr]
  rfl

theorem Cache.hardwareReset_cenb (c : Cache) (n : Nat) : (c.hardwareReset n).cenb = false := by
  rw [Cache.cenb, Cache.hardwareReset_cacr, BitVec.getLsbD_zero]

/-- With the cache disabled and no sequence running a fetch leaves the unit as it is (R85). -/
theorem State.fetch_cache_of_disabled {s : State} (hi : s.cache.invLeft = 0) (he : s.cache.cenb = false) (r : Ref) :
    (s.fetch r).2.cache = s.cache := by
  cases hm : s.plat.sramMaps r
  · rw [State.fetch_disabled hi hm he, State.uncachedFetch_cache]
  · rw [State.fetch_sram hi hm]

/-- With the cache disabled a fetch of a device's longword is answered by the device, which then has answered one more (R45). -/
theorem State.fetch_device {s : State} {r : Ref} (hi : s.cache.invLeft = 0) (hm : s.plat.sramMaps r = false)
    (he : s.cache.cenb = false) (hw : s.plat.wbuf = []) (herr : s.plat.busErrorAt r.addr = false) (hsize : r.size = .longword)
    (hd : s.plat.deviceAt r.addr = true) :
    s.fetch r = (.longword (Config.deviceAnswer s.plat.deviceAccesses (longBase r.addr)),
      { s with plat := { s.plat with
        log := s.plat.log ++ [.fetchLongword (longBase r.addr)]
        deviceAccesses := s.plat.deviceAccesses + 1 } }) := by
  have hword : ¬(r.addr.getLsbD 1 = true ∧ r.size = .word) := by simp [hsize]
  have hd' : (s.plat.access (.fetchLongword (longBase r.addr))).deviceAt r.addr = true := hd
  rw [State.fetch_disabled hi hm he, State.uncachedFetch_eq, if_neg hword, State.extLongword_ok herr,
    Platform.settleWrites_nil _ hw, Platform.externalRead_longword, Platform.deviceAt_longBase, hd, Platform.touch_device hd']
  rfl

end Sys2Proof.Machine

namespace Sys2Proof.Proofs

open Sys2Proof Sys2Proof.Machine

/-- Settles O35: a valid entry is out of the transfer's reach while CFRZ is set. -/
theorem freezeKeepsValidEntries : Obligations.FreezeKeepsValidEntries := by
  unfold Obligations.FreezeKeepsValidEntries
  intro s r i hi hfrozen hvalid
  have hentry := (State.fetchChange_fetch hi r).sameEntry (i := i) (.inr ⟨hfrozen, hvalid⟩)
  exact ⟨hentry.valid.trans hvalid, hentry.tag, hentry.data⟩

/-- Settles O36: the parts a fetch never touches, and the entries the one line transfer does not reach. -/
theorem fetchFrame : Obligations.FetchFrame := by
  unfold Obligations.FetchFrame
  intro s r
  refine ⟨s.fetch_cacr r, s.fetch_acr0 r, s.fetch_acr1 r, s.fetch_core r, s.fetch_sram_contents r, s.fetch_agenda r,
    s.fetch_raised r, fun hi => ?_⟩
  have hchange := State.fetchChange_fetch hi r
  refine ⟨fun i hvalid => hchange.validAt hvalid, fun i hne => ?_⟩
  have hentry := hchange.sameEntry (i := i) (.inl hne)
  exact ⟨hentry.valid, hentry.tag, hentry.data⟩

/-- Settles O37: memory and the log by the bus side's changes, two fetches of a device by `State.fetch_device`, and what the
external bus delivers by its definition. -/
theorem fetchKeepsMemory : Obligations.FetchKeepsMemory := by
  unfold Obligations.FetchKeepsMemory
  refine ⟨fun s r hw => ?_, fun s r hi hm he hw herr hsize hd => ?_, fun p a => ?_⟩
  · obtain ⟨hwbuf, hmem⟩ := State.fetch_mem hw r
    exact ⟨hwbuf, fun x => by rw [hmem], fun hd => State.fetch_logOnly hw hd r⟩
  · have hfirst := State.fetch_device hi hm he hw herr hsize hd
    rw [hfirst]
    refine ⟨rfl, ?_⟩
    exact congrArg Prod.fst (State.fetch_device (s := { s with plat := { s.plat with
      log := s.plat.log ++ [.fetchLongword (longBase r.addr)]
      deviceAccesses := s.plat.deviceAccesses + 1 } }) hi hm he hw herr hsize hd)
  · refine ⟨fun hd => ⟨p.touch_none a hd, ?_, ?_⟩, fun hd => ⟨Platform.touch_device hd, if_pos hd, if_pos hd⟩⟩
    · exact p.externalRead_none a .longword hd
    · exact p.externalRead_none a .word hd

/-- Settles O53: cleared registers give the default attributes and a disabled cache. -/
theorem uncachedAfterReset : Obligations.UncachedAfterReset := by
  unfold Obligations.UncachedAfterReset
  exact fun s r => ⟨s.cache.hardwareReset_effAttr _ r, s.cache.hardwareReset_cenb _,
    State.fetch_cache_of_disabled (s := s.hardwareReset) rfl (s.cache.hardwareReset_cenb _) r⟩

end Sys2Proof.Proofs

/-! SUPPORT. Operand references and the bus controller (20_memory.md section 6, 40_attributes.md section 4): what memory holds where
an operand was written, which bytes a write leaves, and the writes performed before an external fetch. -/

namespace Sys2Proof.Machine

/-! ### Reading back what was written -/

/-- The byte stored at an offset is read there. -/
theorem Memory.readByte_writeBytes (bs : List Byte) : ∀ (m : Memory) (a : Long), m.wf = true → bs.length ≤ 4 →
    ∀ (j : Nat) (hj : j < bs.length), (m.writeBytes a bs).readByte (a + BitVec.ofNat 32 j).toNat = bs[j] := by
  induction bs with
  | nil => exact fun m a _ _ j hj => absurd hj (Nat.not_lt_zero j)
  | cons b rest ih =>
    intro m a hwf hlen j hj
    have hwf' := Memory.wf_writeByte (v := b) hwf a.isLt
    rw [List.length_cons] at hlen hj
    rw [Memory.writeBytes]
    cases j with
    | zero =>
      have hout : ∀ k < rest.length, a ≠ a + 1#32 + BitVec.ofNat 32 k := fun k hk => by bv_omega
      rw [BitVec.add_zero, Memory.readByte_writeBytes_outside hwf' hout, Memory.readByte_writeByte hwf, if_pos rfl]
      rfl
    | succ j =>
      have haddr : a + BitVec.ofNat 32 (j + 1) = a + 1#32 + BitVec.ofNat 32 j := by bv_omega
      rw [haddr, ih _ _ hwf' (by omega) j (by omega)]
      rfl

/-- The byte of an operand at an offset is the one its size puts there. -/
theorem Memory.readByte_writeSized {m : Memory} (h : m.wf = true) (a : Long) (size : RefSize) (v : Long) (j : Nat)
    (hj : j < (size.split v).length) :
    (m.writeSized a size v).readByte (a + BitVec.ofNat 32 j).toNat = (size.split v)[j] :=
  Memory.readByte_writeBytes _ m a h (by cases size <;> simp [RefSize.bytes]) j hj

theorem truncate_byte_eq (v : Long) : (v.extractLsb' 0 8).setWidth 32 = v &&& 0xFF#32 := by
  ext n hn
  interval_cases n <;> simp

theorem truncate_word_eq (v : Long) :
    ((v.extractLsb' 8 8).setWidth 16 <<< 8 ||| (v.extractLsb' 0 8).setWidth 16 : Half).setWidth 32 = v &&& 0xFFFF#32 := by
  ext n hn
  interval_cases n <;> simp

theorem longword_of_bytes (v : Long) :
    (v.extractLsb' 24 8).setWidth 32 <<< 24 ||| (v.extractLsb' 16 8).setWidth 32 <<< 16 |||
      (v.extractLsb' 8 8).setWidth 32 <<< 8 ||| (v.extractLsb' 0 8).setWidth 32 = v := by
  ext n hn
  interval_cases n <;> simp

/-- Reading an operand back at its address and size gives the value written, cut to the size. -/
theorem Memory.readSized_writeSized {m : Memory} (h : m.wf = true) (a : Long) (size : RefSize) (v : Long) :
    (m.writeSized a size v).readSized a size = size.truncate v := by
  have hbyte := Memory.readByte_writeSized h a size v
  cases size with
  | byte =>
    have h0 := hbyte 0 (by simp [RefSize.bytes])
    rw [BitVec.add_zero] at h0
    rw [Memory.readSized, h0]
    exact truncate_byte_eq v
  | word =>
    have h0 := hbyte 0 (by simp [RefSize.bytes])
    have h1 := hbyte 1 (by simp [RefSize.bytes])
    rw [BitVec.add_zero] at h0
    rw [Memory.readSized, Memory.readHalf, h0, h1]
    exact truncate_word_eq v
  | longword =>
    have h0 := hbyte 0 (by simp [RefSize.bytes])
    have h1 := hbyte 1 (by simp [RefSize.bytes])
    have h2 := hbyte 2 (by simp [RefSize.bytes])
    have h3 := hbyte 3 (by simp [RefSize.bytes])
    rw [BitVec.add_zero] at h0
    rw [Memory.readSized, Memory.readLong, h0, h1, h2, h3]
    exact longword_of_bytes v

/-- A byte outside the operand written reads as before. -/
theorem Memory.readByte_writeSized_outside {m : Memory} {a b : Long} {size : RefSize} (h : m.wf = true) (v : Long)
    (hb : ∀ j < size.bytes, b ≠ a + BitVec.ofNat 32 j) :
    (m.writeSized a size v).readByte b.toNat = m.readByte b.toNat :=
  Memory.readByte_writeBytes_outside h (by simpa using hb)

/-! ### One operand write on the bus (R75, R131) -/

/-- An operand write that the bus reports an error for. -/
theorem Platform.performWrite_error {p : Platform} {w : BusWrite} (h : p.busErrorAt w.addr = true) : p.performWrite w =
    { p with log := p.log ++ [.operandWrite w.addr w.size], errors := p.errors ++ [{ src := w.src, cause := .busError }] } := by
  obtain ⟨-, e⟩ | ⟨hok, -⟩ := p.performWrite_cases w
  · exact e
  · rw [h] at hok
    cases hok

/-- An operand write without a bus error is a store, with one access logged. -/
theorem Platform.performWrite_store {p : Platform} {w : BusWrite} (h : p.busErrorAt w.addr = false) :
    p.performWrite w = (p.access (.operandWrite w.addr w.size)).store w.addr w.size w.value := by
  obtain ⟨hbad, -⟩ | ⟨-, e⟩ := p.performWrite_cases w
  · rw [h] at hbad
    cases hbad
  · exact e

/-- An operand write that a device takes. -/
theorem Platform.performWrite_device {p : Platform} {w : BusWrite} (h : p.busErrorAt w.addr = false)
    (hd : p.deviceAt w.addr = true) : p.performWrite w =
      { p with log := p.log ++ [.operandWrite w.addr w.size], deviceAccesses := p.deviceAccesses + 1 } := by
  rw [Platform.performWrite_store h]
  obtain ⟨-, e⟩ | ⟨hno, -⟩ := (p.access (.operandWrite w.addr w.size)).store_cases w.addr w.size w.value
  · exact e
  · rw [Platform.deviceAt_access, hd] at hno
    cases hno

/-- An operand write that memory takes. -/
theorem Platform.performWrite_memory {p : Platform} {w : BusWrite} (h : p.busErrorAt w.addr = false)
    (hd : p.deviceAt w.addr = false) : p.performWrite w =
      { p with log := p.log ++ [.operandWrite w.addr w.size], mem := Memory.writeSized p.mem w.addr w.size w.value } := by
  rw [Platform.performWrite_store h, Platform.store_none _ _ _ _ (by rwa [Platform.deviceAt_access])]
  rfl

theorem Platform.performWrite_wf {p : Platform} (w : BusWrite) (h : Memory.wf p.mem = true) :
    Memory.wf (p.performWrite w).mem = true := by
  obtain ⟨-, e⟩ | ⟨-, e⟩ := p.performWrite_cases w <;> rw [e]
  · exact h
  · exact Platform.store_wf h

/-- A byte outside the operand written is as before, whatever ended the write. -/
theorem Platform.performWrite_readByte_outside {p : Platform} {w : BusWrite} {b : Long} (hwf : Memory.wf p.mem = true)
    (hb : ∀ j < w.size.bytes, b ≠ w.addr + BitVec.ofNat 32 j) :
    Memory.readByte (p.performWrite w).mem b.toNat = Memory.readByte p.mem b.toNat := by
  cases herr : p.busErrorAt w.addr
  · cases hd : p.deviceAt w.addr
    · rw [Platform.performWrite_memory herr hd]
      exact Memory.readByte_writeSized_outside hwf _ hb
    · rw [Platform.performWrite_device herr hd]
  · rw [Platform.performWrite_error herr]

/-! ### Several operand writes on the bus -/

theorem Platform.performWrites_readByte_outside (ws : List BusWrite) : ∀ (p : Platform) (b : Long), Memory.wf p.mem = true →
    (∀ w ∈ ws, ∀ j < w.size.bytes, b ≠ w.addr + BitVec.ofNat 32 j) →
    Memory.readByte (Platform.performWrites ws p).mem b.toNat = Memory.readByte p.mem b.toNat := by
  induction ws with
  | nil => exact fun p b _ _ => rfl
  | cons w ws ih =>
    intro p b hwf hb
    obtain ⟨hw, hws⟩ := List.forall_mem_cons.mp hb
    rw [Platform.performWrites, ih _ _ (Platform.performWrite_wf w hwf) hws, Platform.performWrite_readByte_outside hwf hw]

theorem Platform.performWrites_readSized_disjoint (ws : List BusWrite) {a : Long} {size : RefSize} : ∀ p : Platform,
    Memory.wf p.mem = true → (∀ w ∈ ws, w.overlaps a size = false) →
    Memory.readSized (Platform.performWrites ws p).mem a size = Memory.readSized p.mem a size := by
  induction ws with
  | nil => exact fun p _ _ => rfl
  | cons w ws ih =>
    intro p hwf h
    obtain ⟨hw, hws⟩ := List.forall_mem_cons.mp h
    rw [Platform.performWrites, ih _ (Platform.performWrite_wf w hwf) hws, Platform.performWrite_mem_disjoint hwf hw]

/-- Settling writes that share no byte with an operand leaves what is read of it. -/
theorem Platform.settleWrites_readSized_disjoint {p : Platform} {a : Long} {size : RefSize} (hwf : Memory.wf p.mem = true)
    (h : ∀ w ∈ p.wbuf, w.overlaps a size = false) :
    Memory.readSized p.settleWrites.mem a size = Memory.readSized p.mem a size := by
  obtain e | ⟨-, e⟩ := p.settleWrites_cases <;> rw [e]
  exact Platform.performWrites_readSized_disjoint p.wbuf { p with wbuf := [] } hwf h

/-- So does performing one of them. -/
theorem Platform.drainWrite_readSized_disjoint {p : Platform} {a : Long} {size : RefSize} (hwf : Memory.wf p.mem = true)
    (h : ∀ w ∈ p.wbuf, w.overlaps a size = false) (k : Nat) :
    Memory.readSized (p.drainWrite k).mem a size = Memory.readSized p.mem a size := by
  obtain ⟨-, e⟩ | ⟨w, hw, e⟩ := p.drainWrite_cases k <;> rw [e]
  exact Platform.performWrite_mem_disjoint (p := { p with wbuf := p.wbuf.eraseIdx k }) hwf (h w (List.mem_of_getElem? hw))

/-- Overlapping, by the bytes of both operands. -/
theorem BusWrite.overlaps_iff (w : BusWrite) (a : Long) (size : RefSize) : w.overlaps a size = true ↔
    ∃ j < w.size.bytes, ∃ k < size.bytes, w.addr + BitVec.ofNat 32 j = a + BitVec.ofNat 32 k := by
  simp only [BusWrite.overlaps, List.any_eq_true, List.contains_iff_mem, mem_operandBytes]
  constructor
  · rintro ⟨_, ⟨j, hj, rfl⟩, k, hk, e⟩
    exact ⟨j, hj, k, hk, e⟩
  · rintro ⟨j, hj, k, hk, e⟩
    exact ⟨_, ⟨j, hj, rfl⟩, k, hk, e⟩

@[simp] theorem Platform.performOverlapping_busErrorAt (p : Platform) (a b : Long) (size : RefSize) :
    (p.performOverlapping a size).busErrorAt b = p.busErrorAt b := by
  rw [Platform.busErrorAt, Platform.performOverlapping_busErrors, Platform.busErrorAt]

@[simp] theorem Platform.performOverlapping_deviceAt (p : Platform) (a b : Long) (size : RefSize) :
    (p.performOverlapping a size).deviceAt b = p.deviceAt b := by
  rw [Platform.deviceAt, Platform.performOverlapping_devices, Platform.deviceAt]

/-! ### Operand references -/

theorem State.operandRead_cache (s : State) (r : Ref) : (s.operandRead r).2.cache = s.cache := by
  obtain ⟨-, e⟩ | ⟨-, -, e⟩ | ⟨-, -, e⟩ := s.operandRead_cases r <;> rw [e]

theorem State.operandWrite_cache (s : State) (r : Ref) (v : Long) : (s.operandWrite r v).2.cache = s.cache := by
  obtain ⟨-, e⟩ | ⟨-, -, e⟩ | ⟨-, -, -, e⟩ | ⟨-, -, -, e⟩ := s.operandWrite_cases r v <;> rw [e]

/-- The effective attributes are given by the three registers (R72). -/
theorem Cache.effAttr_congr {c d : Cache} (h : c.cacr = d.cacr) (h0 : c.acr0 = d.acr0) (h1 : c.acr1 = d.acr1) (r : Ref) :
    c.effAttr r = d.effAttr r := by
  rw [Cache.effAttr, Cache.effAttr, h0, h1, Cache.defaultAttr_eq, Cache.defaultAttr_eq, h]

theorem State.operandWrite_sram {s : State} {r : Ref} (h : s.plat.sramMaps r = true) (v : Long) : s.operandWrite r v =
    (.done, { s with plat := { s.plat with sram := Memory.writeSized s.plat.sram r.addr r.size v } }) := if_pos h

theorem State.operandWrite_protected {s : State} {r : Ref} (hm : s.plat.sramMaps r = false)
    (hp : (s.cache.effAttr r).wp = true) (v : Long) : s.operandWrite r v =
      (.accessError, { s with plat := s.plat.addError { src := r.src, cause := .writeProtect } }) := by
  simp [State.operandWrite, hm, hp]

theorem State.operandWrite_buffered {s : State} {r : Ref} (hm : s.plat.sramMaps r = false)
    (hp : (s.cache.effAttr r).wp = false) (hb : (s.cache.effAttr r).bufwrite = true) (v : Long) : s.operandWrite r v =
      (.done, { s with plat := { s.plat with
        wbuf := s.plat.wbuf ++ [{ addr := r.addr, size := r.size, value := v, src := r.src }] } }) := by
  simp [State.operandWrite, hm, hp, hb]

/-- The operand write that a reference asks the bus for. -/
def Ref.busWrite (r : Ref) (v : Long) : BusWrite := { addr := r.addr, size := r.size, value := v, src := r.src }

theorem State.operandWrite_unbuffered {s : State} {r : Ref} (hm : s.plat.sramMaps r = false)
    (hp : (s.cache.effAttr r).wp = false) (hb : (s.cache.effAttr r).bufwrite = false) (v : Long) : s.operandWrite r v =
      (if s.plat.busErrorAt r.addr then .accessError else .done,
        { s with plat := (s.plat.performOverlapping r.addr r.size).performWrite (r.busWrite v) }) := by
  simp [State.operandWrite, Ref.busWrite, hm, hp, hb]

/-- An unbuffered write that reaches memory, after the buffered writes to its own bytes (R48 (a)). -/
theorem State.operandWrite_memory {s : State} {r : Ref} (hm : s.plat.sramMaps r = false)
    (hp : (s.cache.effAttr r).wp = false) (hb : (s.cache.effAttr r).bufwrite = false)
    (herr : s.plat.busErrorAt r.addr = false) (hd : s.plat.deviceAt r.addr = false) (v : Long) : s.operandWrite r v =
      (.done, { s with plat := { (s.plat.performOverlapping r.addr r.size) with
        log := (s.plat.performOverlapping r.addr r.size).log ++ [.operandWrite r.addr r.size]
        mem := Memory.writeSized (s.plat.performOverlapping r.addr r.size).mem r.addr r.size v } }) := by
  rw [State.operandWrite_unbuffered hm hp hb, herr,
    Platform.performWrite_memory (w := r.busWrite v) ((s.plat.performOverlapping_busErrorAt _ _ _).trans herr)
      ((s.plat.performOverlapping_deviceAt _ _ _).trans hd)]
  rfl

/-! ### Buffered writes and a later external fetch (R48, D8) -/

/-- Settling, by the two values of the open parameter. -/
theorem Platform.settleWrites_eq {p q : Platform}
    (h : (Config.bufwriteBeforeLaterFetch = true ∧ q = Platform.performWrites p.wbuf { p with wbuf := [] }) ∨
      (Config.bufwriteBeforeLaterFetch = false ∧ q = p)) : p.settleWrites = q := by
  obtain ⟨hyes, rfl⟩ | ⟨hno, rfl⟩ := h
  · cases hw : p.wbuf with
    | nil => rw [Platform.settleWrites_nil p hw, Platform.performWrites, ← hw]
    | cons w rest => simp [Platform.settleWrites, hw, hyes]
  · obtain e | ⟨hyes, -⟩ := q.settleWrites_cases
    · exact e
    · rw [hno] at hyes
      cases hyes

/-- What the external bus delivers depends on memory, on the devices and on how often they have answered. -/
theorem Platform.externalRead_congr {p q : Platform} (hmem : p.mem = q.mem) (hd : p.devices = q.devices)
    (ha : p.deviceAccesses = q.deviceAccesses) (a : Long) (size : RefSize) :
    p.externalRead a size = q.externalRead a size := by
  rw [Platform.externalRead, Platform.externalRead, Platform.deviceAt, Platform.deviceAt, hmem, hd, ha]

/-- What the external bus delivers after one operand write is what it delivers after its store. -/
theorem Platform.performWrites_externalRead {p : Platform} {w : BusWrite} (h : p.busErrorAt w.addr = false) (a : Long)
    (size : RefSize) : (Platform.performWrites [w] { p with wbuf := [] }).externalRead a size =
      (p.store w.addr w.size w.value).externalRead a size := by
  have hone : Platform.performWrites [w] { p with wbuf := [] } = Platform.performWrite { p with wbuf := [] } w := rfl
  cases hd : p.deviceAt w.addr
  · rw [hone, Platform.performWrite_memory (p := { p with wbuf := [] }) h hd, Platform.store_none _ _ _ _ hd]
    exact Platform.externalRead_congr rfl rfl rfl a size
  · obtain ⟨-, e⟩ | ⟨hno, -⟩ := p.store_cases w.addr w.size w.value
    · rw [hone, Platform.performWrite_device (p := { p with wbuf := [] }) h hd, e]
      exact Platform.externalRead_congr rfl rfl rfl a size
    · rw [hd] at hno
      cases hno

/-- The three external fetches are answered with what the external bus delivers once the writes are settled. -/
theorem State.external_answers {s : State} {a : Long} {q : Platform} (herr : s.plat.busErrorAt a = false)
    (hq : s.plat.settleWrites = q) :
    (s.extLongword a).1 = .longword (q.externalRead (longBase a) .longword) ∧
    (s.lineFetch a).1 = .longword (q.externalRead (longBase a) .longword) ∧
    (s.extWord a).1 = .word ((q.externalRead a .word).setWidth 16) := by
  rw [State.extLongword_ok herr, State.lineFetch_ok herr, State.extWord_ok herr, hq]
  exact ⟨rfl, rfl, rfl⟩

/-- An address aligned on a longword is that longword's. -/
theorem longBase_of_aligned {a : Long} (h : RefSize.longword.aligned a = true) : longBase a = a := by
  simp only [RefSize.aligned, Bool.and_eq_true, Bool.not_eq_true'] at h
  obtain ⟨h0, h1⟩ := h
  rw [BitVec.getLsbD_eq_getElem (by decide)] at h0 h1
  ext n hn
  interval_cases n <;> simp [longBase, h0, h1]

/-- An unbuffered write that reaches memory leaves its value at its operand, with no buffered write to it left. -/
theorem State.operandWrite_settled {s : State} {r : Ref} (hwf : Memory.wf s.plat.mem = true)
    (hm : s.plat.sramMaps r = false) (hp : (s.cache.effAttr r).wp = false) (hb : (s.cache.effAttr r).bufwrite = false)
    (herr : s.plat.busErrorAt r.addr = false) (hd : s.plat.deviceAt r.addr = false) (v : Long) :
    Memory.wf (s.operandWrite r v).2.plat.mem = true ∧
    Memory.readSized (s.operandWrite r v).2.plat.mem r.addr r.size = r.size.truncate v ∧
    ∀ w ∈ (s.operandWrite r v).2.plat.wbuf, w.overlaps r.addr r.size = false := by
  have hwf' := Platform.performOverlapping_wf r.addr r.size hwf
  rw [State.operandWrite_memory hm hp hb herr hd]
  refine ⟨Memory.wf_writeSized hwf', Memory.readSized_writeSized hwf' _ _ _, fun w hw => ?_⟩
  have hkept : w ∈ (s.plat.performOverlapping r.addr r.size).wbuf := hw
  rw [Platform.performOverlapping_wbuf, List.mem_filter] at hkept
  simpa using hkept.2

end Sys2Proof.Machine

namespace Sys2Proof.Proofs

open Sys2Proof Sys2Proof.Machine

/-- Settles O40: the SRAM module is asked first by each kind of reference, and its contents read back what was written. -/
theorem sramAnswersFirst : Obligations.SramAnswersFirst := by
  unfold Obligations.SramAnswersFirst
  intro s r v hm
  rw [State.operandWrite_sram hm]
  exact ⟨fun hi => State.fetch_sram hi hm, if_pos hm, rfl, rfl, fun hwf =>
    ⟨Memory.readSized_writeSized hwf r.addr r.size v, fun b hb => Memory.readByte_writeSized_outside hwf v hb⟩⟩

/-- Settles O42: operand references name the unit for the attributes of a write alone. -/
theorem operandsLeaveCacheAlone : Obligations.OperandsLeaveCacheAlone := by
  unfold Obligations.OperandsLeaveCacheAlone
  refine fun s r v => ⟨s.operandRead_cache r, s.operandWrite_cache r v, fun c => ?_, fun c hc h0 h1 => ?_, fun hm => ?_⟩
  · simp only [State.operandRead]
    split
    · exact ⟨rfl, rfl⟩
    · split <;> exact ⟨rfl, rfl⟩
  · simp only [State.operandWrite, Cache.effAttr_congr hc h0 h1 r]
    split
    · exact ⟨rfl, rfl⟩
    · split
      · exact ⟨rfl, rfl⟩
      · split <;> exact ⟨rfl, rfl⟩
  · refine ⟨fun herr => ?_, fun herr => ?_⟩
    · simp only [State.operandRead, hm, herr, Bool.false_eq_true, if_false]
      rfl
    · simp [State.operandRead, hm, herr, Platform.access]

/-- Settles O43: the protection error is noted, and nothing else. -/
theorem protectedWriteEndsInError : Obligations.ProtectedWriteEndsInError := by
  unfold Obligations.ProtectedWriteEndsInError
  exact fun s r v hm hp => State.operandWrite_protected hm hp v

/-- Settles O44: the three ends of an unbuffered write, and what is performed before it. -/
theorem unbufferedWriteReachesMemory : Obligations.UnbufferedWriteReachesMemory := by
  unfold Obligations.UnbufferedWriteReachesMemory
  refine ⟨?_, fun p a size => ⟨p.performOverlapping_wbuf a size, p.performOverlapping_none a size, ?_, fun w => ?_⟩⟩
  · rintro s r v _ hm hp hb rfl
    refine ⟨fun herr => ?_, fun herr hd => ?_, fun herr hd => ?_⟩
    · rw [State.operandWrite_unbuffered hm hp hb, herr,
        Platform.performWrite_error (w := r.busWrite v) ((s.plat.performOverlapping_busErrorAt _ _ _).trans herr)]
      rfl
    · rw [State.operandWrite_unbuffered hm hp hb, herr,
        Platform.performWrite_device (w := r.busWrite v) ((s.plat.performOverlapping_busErrorAt _ _ _).trans herr)
          ((s.plat.performOverlapping_deviceAt _ _ _).trans hd)]
      rfl
    · rw [State.operandWrite_memory hm hp hb herr hd]
      refine ⟨rfl, rfl, fun hwf => ?_⟩
      have hwf' := Platform.performOverlapping_wf r.addr r.size hwf
      exact ⟨Memory.readSized_writeSized hwf' r.addr r.size v,
        fun b hb' => Memory.readByte_writeSized_outside hwf' v hb'⟩
  · intro hwf b hb
    refine Platform.performWrites_readByte_outside _ _ b hwf fun w hw => ?_
    obtain ⟨hmem, hover⟩ := List.mem_filter.mp hw
    exact hb w hmem hover
  · exact w.overlaps_iff a size

/-- Settles O45: the write waits, and is performed as any operand write on the bus. -/
theorem bufferedWriteWaits : Obligations.BufferedWriteWaits := by
  unfold Obligations.BufferedWriteWaits
  refine ⟨fun s r v hm hp hb => State.operandWrite_buffered hm hp hb v, fun s k w hw => ?_⟩
  have hdrain : s.plat.drainWrite k = Platform.performWrite { s.plat with wbuf := s.plat.wbuf.eraseIdx k } w := by
    rw [Platform.drainWrite, hw]
  rw [State.runMove, hdrain]
  refine ⟨fun herr => ?_, fun herr hd => ?_, fun herr hd => ?_⟩
  · rw [Platform.performWrite_error (p := { s.plat with wbuf := s.plat.wbuf.eraseIdx k }) herr]
  · rw [Platform.performWrite_device (p := { s.plat with wbuf := s.plat.wbuf.eraseIdx k }) herr hd]
  · rw [Platform.performWrite_memory (p := { s.plat with wbuf := s.plat.wbuf.eraseIdx k }) herr hd]

/-- Settles O46: the external fetches after the writes are settled, with any writes, with one, and after an unbuffered one. -/
theorem bufferedWriteAgainstFetch : Obligations.BufferedWriteAgainstFetch := by
  unfold Obligations.BufferedWriteAgainstFetch
  refine ⟨fun s a q herr hq => ?_, fun s a w hw hwerr herr => ?_, ?_⟩
  · have hsettled := Platform.settleWrites_eq hq
    rw [State.extLongword_ok herr, State.extWord_ok herr, State.lineFetch_ok herr, hsettled]
    refine ⟨rfl, rfl, rfl, ?_⟩
    simp only [Platform.access, List.append_assoc, List.cons_append, List.nil_append]
    rfl
  · refine ⟨fun hyes => ?_, fun hno => ?_⟩
    · have hanswers := State.external_answers herr (Platform.settleWrites_eq (.inl ⟨hyes, rfl⟩))
      simp only [hw, Platform.performWrites_externalRead hwerr] at hanswers
      exact hanswers
    · exact State.external_answers herr (Platform.settleWrites_eq (.inr ⟨hno, rfl⟩))
  · rintro s _ r v hwf hm hp hb herr hd rfl
    obtain ⟨hwf', hvalue, hleft⟩ := State.operandWrite_settled hwf hm hp hb herr hd v
    have hsettled := (Platform.settleWrites_readSized_disjoint hwf' hleft).trans hvalue
    have herr' : (s.operandWrite r v).2.plat.busErrorAt r.addr = false := by
      rw [State.operandWrite_memory hm hp hb herr hd]
      exact (s.plat.performOverlapping_busErrorAt _ _ _).trans herr
    have hd' : (s.operandWrite r v).2.plat.settleWrites.deviceAt r.addr = false := by
      rw [Platform.deviceAt_settleWrites, State.operandWrite_memory hm hp hb herr hd]
      exact (s.plat.performOverlapping_deviceAt _ _ _).trans hd
    obtain ⟨hlong, hline, hword⟩ := State.external_answers herr' rfl
    refine ⟨hsettled, fun k => (Platform.drainWrite_readSized_disjoint hwf' hleft k).trans hvalue,
      fun haligned hsize => ?_, fun _ hsize => ?_⟩
    · rw [hsize] at haligned hsettled
      rw [longBase_of_aligned haligned, Platform.externalRead_none _ _ _ hd', hsettled] at hlong hline
      exact ⟨hlong, hline⟩
    · rw [hsize] at hsettled
      rw [hword, Platform.externalRead_none _ _ _ hd', hsettled, RefSize.truncate]
      congr 1
      ext n hn
      interval_cases n <;> simp

end Sys2Proof.Proofs

/-! SUPPORT. What one move can do, said once, and the invariants of the registers, of the array and of a sound state
(10_state.md sections 2 to 5, 60_exceptions.md section 4). -/

namespace Sys2Proof.Machine

/-! ### One move -/

/-- What the state is after a move that answers a next state, for each move. -/
inductive State.Moved (s : State) : Move → State → Prop
  | instruction {u t : State} {i : Instr} (hfetch : s.fetchInstruction = .next u) (hexec : exec i u = .next t) :
      s.Moved .instruction t
  | ahead (r : Ref) (ws : List Half) : s.Moved .prefetch ((s.fetch r).2.appendWords ws)
  | coreInstruction {n : Nat} {u : State} (hfetch : State.ensureWords n n s = .next u) :
      s.Moved (.coreInstruction n) (u.advance n)
  | coreSetReg (r : Reg) (v : Long) : s.Moved (.coreSetReg r v) { s with core := s.core.writeReg r v }
  | coreJump (target : Long) : s.Moved (.coreJump target) { s with core := { s.core with pc := target, prefetch := [] } }
  | coreSetSr (v : Half) : s.Moved (.coreSetSr v) { s with core := { s.core with sr := v } }
  | fetch (r : Ref) (reply : Reply) : s.Moved (.fetch r) ((s.fetch { r with kind := .fetch }).2.answer reply)
  | operandRead (r : Ref) (reply : Reply) :
      s.Moved (.operandRead r) ((s.operandRead { r with kind := .read }).2.answer reply)
  | operandWrite (r : Ref) (v : Long) (reply : Reply) :
      s.Moved (.operandWrite r v) ((s.operandWrite { r with kind := .write } v).2.answer reply)
  | fillStep : s.Moved .fillStep s.fillStep
  | invStep : s.Moved .invStep s.invStep
  | drainWrite (k : Nat) : s.Moved (.drainWrite k) { s with plat := s.plat.drainWrite k }
  | busMasterStore (a : Long) (v : Byte) : s.Moved (.busMasterStore a v) { s with plat := s.plat.busMasterStore a v }
  | deliverError (k : Nat) : s.Moved (.deliverError k) (s.deliverError k)
  | debugWrite (rc : CtrlReg) (v : Long) (reply : Reply) : s.Moved (.debugWrite rc v) ((s.writeCtrl rc v).answer reply)
  | debugInvalidate (a : Long) (reply : Reply) : s.Moved (.debugInvalidate a) ((s.pushLine a).answer reply)
  | bdmRead (rc : CtrlReg) (reply : Reply) : s.Moved (.bdmRead rc) (s.answer reply)
  | setBdm (on : Bool) : s.Moved (.setBdm on) { s with plat := { s.plat with bdm := on } }
  | hardwareReset : s.Moved .hardwareReset s.hardwareReset

/-- An outcome that is a next state or a refusal, when it is a next state. -/
theorem next_of_ite {c : Prop} [Decidable c] {t u : State} {e : Refusal}
    (h : (if c then .next u else .refused e : Host.Outcome State Fault Refusal) = .next t) : t = u := by
  split at h
  · exact (Host.Outcome.next.inj h).symm
  · cases h

theorem State.moved_of_runMove {s t : State} {m : Move} (h : State.runMove s m = .next t) : s.Moved m t := by
  cases m with
  | instruction =>
    obtain ⟨u, i, n, hfetch, -, hexec⟩ := State.instructionStep_next h
    exact .instruction hfetch hexec
  | prefetch =>
    simp only [State.runMove, State.prefetchMove] at h
    split at h
    · cases h
    · cases h
      exact .ahead _ _
  | coreInstruction n =>
    obtain ⟨u, hfetch, rfl⟩ := State.coreInstruction_next h
    exact .coreInstruction hfetch
  | coreSetReg r v =>
    rw [next_of_ite h]
    exact .coreSetReg r v
  | fetch r =>
    simp only [State.runMove, State.fetchMove] at h
    split at h
    · cases h
    · split at h
      · cases h
      · cases h
        exact .fetch r _
  | operandRead r =>
    rw [next_of_ite h]
    exact .operandRead r _
  | operandWrite r v =>
    rw [next_of_ite h]
    exact .operandWrite r v _
  | coreJump target => cases h; exact .coreJump target
  | coreSetSr v => cases h; exact .coreSetSr v
  | fillStep => cases h; exact .fillStep
  | invStep => cases h; exact .invStep
  | drainWrite k => cases h; exact .drainWrite k
  | busMasterStore a v => cases h; exact .busMasterStore a v
  | deliverError k => cases h; exact .deliverError k
  | debugWrite rc v => cases h; exact .debugWrite rc v _
  | debugInvalidate a => cases h; exact .debugInvalidate a _
  | bdmRead rc => cases h; exact .bdmRead rc _
  | setBdm on => cases h; exact .setBdm on
  | hardwareReset => cases h; exact .hardwareReset

/-- A step is a move of the agenda, or the core's instruction step with the agenda empty. -/
theorem step_moved {s t : State} (h : step s = .next t) :
    ∃ (m : Move) (rest : List Move), (s.agenda = m :: rest ∨ (s.agenda = [] ∧ m = .instruction ∧ rest = [])) ∧
      State.Moved { s with agenda := rest } m t := by
  cases ha : s.agenda with
  | nil =>
    refine ⟨.instruction, [], .inr ⟨rfl, rfl, rfl⟩, State.moved_of_runMove ?_⟩
    rw [step, State.nextMove, ha] at h
    rw [← ha]
    exact h
  | cons m rest =>
    refine ⟨m, rest, .inl rfl, State.moved_of_runMove ?_⟩
    rw [step, State.nextMove, ha] at h
    exact h

theorem State.deliverError_cache (s : State) (k : Nat) : (s.deliverError k).cache = s.cache := by
  obtain ⟨-, e⟩ | ⟨-, -, e⟩ := s.deliverError_cases k <;> rw [e]
  rfl

/-! ### The three registers -/

/-- CACR, ACR0 and ACR1 are the same in two units. -/
structure Cache.SameRegs (c d : Cache) : Prop where
  cacr : d.cacr = c.cacr
  acr0 : d.acr0 = c.acr0
  acr1 : d.acr1 = c.acr1

theorem Cache.SameRegs.refl (c : Cache) : c.SameRegs c := ⟨rfl, rfl, rfl⟩

theorem Cache.SameRegs.of_eq {c d : Cache} (h : d = c) : c.SameRegs d := h ▸ .refl c

theorem Cache.SameRegs.trans {c d e : Cache} (h : c.SameRegs d) (k : d.SameRegs e) : c.SameRegs e :=
  ⟨k.cacr.trans h.cacr, k.acr0.trans h.acr0, k.acr1.trans h.acr1⟩

theorem State.sameRegs_fetch (s : State) (r : Ref) : s.cache.SameRegs (s.fetch r).2.cache :=
  ⟨s.fetch_cacr r, s.fetch_acr0 r, s.fetch_acr1 r⟩

theorem Cache.sameRegs_invStep (clears : Bool) (c : Cache) : c.SameRegs (c.invStep clears) := by
  cases hn : c.invLeft with
  | zero => rw [Cache.invStep_idle clears c hn]; exact .refl c
  | succ n => rw [Cache.invStep_succ clears c n hn]; exact ⟨rfl, rfl, rfl⟩

theorem Cache.sameRegs_pushLine (clears : Bool) (v : Long) (c : Cache) : c.SameRegs (c.pushLine clears v) := by
  obtain ⟨-, e⟩ | ⟨-, e⟩ := c.pushLine_cases clears v <;> rw [e] <;> exact ⟨rfl, rfl, rfl⟩

theorem State.sameRegs_fillStep (s : State) : s.cache.SameRegs s.fillStep.cache := by
  rw [s.filling_fillStep.unit]
  exact ⟨rfl, rfl, rfl⟩

/-- The core's fetches up to its instruction leave the registers and the status register. -/
theorem State.fetchInstruction_regs {s u : State} (h : s.fetchInstruction = .next u) :
    s.cache.SameRegs u.cache ∧ u.core.sr = s.core.sr :=
  State.fetchInstruction_keeps (P := fun t => s.cache.SameRegs t.cache ∧ t.core.sr = s.core.sr)
    (fun t r ht => ⟨ht.1.trans (t.sameRegs_fetch r), by rw [t.fetch_core r]; exact ht.2⟩) (fun _ _ ht => ht)
    ⟨.refl _, rfl⟩ h

theorem State.ensureWords_regs {s u : State} {n fuel : Nat} (h : State.ensureWords n fuel s = .next u) :
    s.cache.SameRegs u.cache :=
  State.ensureWords_keeps (P := fun t => s.cache.SameRegs t.cache) (fun t r ht => ht.trans (t.sameRegs_fetch r))
    (fun _ _ ht => ht) n fuel s u (.refl _) h

/-- An instruction in user mode leaves the registers (R123). -/
theorem State.Moved.instruction_sameRegs {s t : State} (hm : s.Moved .instruction t) (hu : s.supervisor = false) :
    s.cache.SameRegs t.cache := by
  cases hm with
  | instruction hfetch hexec =>
    obtain ⟨hregs, hsr⟩ := State.fetchInstruction_regs hfetch
    rw [exec_user _ (by rwa [State.supervisor, Core.supervisor, hsr])] at hexec
    cases hexec
    exact hregs

/-- Of the moves only an instruction, a Debug module write and a hardware reset change a register. -/
theorem State.Moved.sameRegs {s t : State} {m : Move} (hm : s.Moved m t) (hw : m.mayWriteRegisters = false) :
    s.cache.SameRegs t.cache := by
  cases hm with
  | instruction => cases hw
  | debugWrite => cases hw
  | hardwareReset => cases hw
  | ahead r ws => exact s.sameRegs_fetch r
  | coreInstruction hfetch =>
    have hregs := State.ensureWords_regs hfetch
    exact hregs
  | fetch r => exact s.sameRegs_fetch _
  | operandRead r => exact .of_eq (s.operandRead_cache _)
  | operandWrite r v => exact .of_eq (s.operandWrite_cache _ v)
  | fillStep => exact s.sameRegs_fillStep
  | invStep => exact s.cache.sameRegs_invStep _
  | deliverError k => exact .of_eq (s.deliverError_cache k)
  | debugInvalidate a => exact s.cache.sameRegs_pushLine _ a
  | coreSetReg | coreJump | coreSetSr | drainWrite | busMasterStore | bdmRead | setBdm => exact .refl _

/-! ### The array under moves that do not fetch -/

theorem Cache.KeepsLines.of_same {c d : Cache} (h : d = c) : c.KeepsLines d := h ▸ .refl c

theorem State.keepsLines_fillStep (s : State) : s.cache.KeepsLines s.fillStep.cache := by
  rw [s.filling_fillStep.unit]
  exact .of_eq rfl rfl rfl

theorem Cache.keepsLines_hardwareReset (c : Cache) (n : Nat) : c.KeepsLines (c.hardwareReset n) := .of_eq rfl rfl rfl

/-- A move that does not fetch makes no entry valid and changes no tag and no data entry (R33, D14). -/
theorem State.Moved.keepsLines {s t : State} {m : Move} (hm : s.Moved m t) (hf : m.fetches = false) :
    s.cache.KeepsLines t.cache := by
  cases hm with
  | instruction => cases hf
  | ahead => cases hf
  | coreInstruction => cases hf
  | fetch => cases hf
  | operandRead r => exact .of_same (s.operandRead_cache _)
  | operandWrite r v => exact .of_same (s.operandWrite_cache _ v)
  | fillStep => exact s.keepsLines_fillStep
  | invStep => exact s.cache.keepsLines_invStep _
  | deliverError k => exact .of_same (s.deliverError_cache k)
  | debugWrite rc v => exact s.cache.keepsLines_writeCtrl rc v
  | debugInvalidate a => exact s.cache.keepsLines_pushLine _ a
  | hardwareReset => exact s.cache.keepsLines_hardwareReset _
  | coreSetReg | coreJump | coreSetSr | drainWrite | busMasterStore | bdmRead | setBdm => exact .refl _

end Sys2Proof.Machine

namespace Sys2Proof.Proofs

open Sys2Proof Sys2Proof.Machine

/-- Settles O58: the move is the core's instruction step either way. -/
theorem userModeKeepsRegisters : Obligations.UserModeKeepsRegisters := by
  unfold Obligations.UserModeKeepsRegisters
  intro s t hagenda hu h
  obtain ⟨m, rest, ha, hm⟩ := step_moved h
  have hinstr : m = .instruction := by
    obtain ha | ⟨-, rfl, -⟩ := ha
    · obtain hnil | ⟨_, hcons⟩ := hagenda
      · rw [hnil] at ha
        cases ha
      · rw [hcons] at ha
        exact (List.cons.inj ha).1.symm
    · rfl
  subst hinstr
  have hregs := hm.instruction_sameRegs hu
  exact ⟨hregs.cacr, hregs.acr0, hregs.acr1⟩

/-- Settles O59, by `State.Moved.sameRegs`. -/
theorem onlyWritesChangeRegisters : Obligations.OnlyWritesChangeRegisters := by
  unfold Obligations.OnlyWritesChangeRegisters
  intro s t m hw h
  have hregs := (State.moved_of_runMove h).sameRegs hw
  exact ⟨hregs.cacr, hregs.acr0, hregs.acr1⟩

/-- Settles O60, by `State.Moved.keepsLines`. -/
theorem onlyFetchesValidateEntries : Obligations.OnlyFetchesValidateEntries := by
  unfold Obligations.OnlyFetchesValidateEntries
  intro s t m i hf h hvalid
  have hkeeps := (State.moved_of_runMove h).keepsLines hf
  exact ⟨hkeeps.valid i hvalid, hkeeps.tagAt i, fun k => hkeeps.dataAt _⟩

end Sys2Proof.Proofs

/-! SUPPORT. A sound state stays sound (10_state.md): the unit's part through a fetch and through each of its operations, and the
canonical form of both memories through each operation of the bus side. -/

namespace Sys2Proof.Machine

/-! ### The bus side: both memories stay in canonical form -/

/-- Both memories are in canonical form. -/
structure Platform.MemoriesWf (p : Platform) : Prop where
  mem : Memory.wf p.mem = true
  sram : Memory.wf p.sram = true

theorem Platform.MemoriesWf.of_eq {p q : Platform} (h : p.MemoriesWf) (hmem : q.mem = p.mem) (hsram : q.sram = p.sram) :
    q.MemoriesWf := ⟨hmem ▸ h.mem, hsram ▸ h.sram⟩

theorem Platform.MemoriesWf.access {p : Platform} (h : p.MemoriesWf) (x : ExtAccess) : (p.access x).MemoriesWf :=
  h.of_eq rfl rfl

theorem Platform.MemoriesWf.touch {p : Platform} (h : p.MemoriesWf) (a : Long) : (p.touch a).MemoriesWf :=
  h.of_eq (p.touch_mem a) (p.touch_sram a)

theorem Platform.MemoriesWf.store {p : Platform} (h : p.MemoriesWf) (a : Long) (size : RefSize) (v : Long) :
    (p.store a size v).MemoriesWf :=
  ⟨Platform.store_wf h.mem, (p.store_sram a size v).symm ▸ h.sram⟩

theorem Platform.MemoriesWf.performWrite {p : Platform} (w : BusWrite) (h : p.MemoriesWf) : (p.performWrite w).MemoriesWf := by
  obtain ⟨-, e⟩ | ⟨-, e⟩ := p.performWrite_cases w <;> rw [e]
  · exact h.of_eq rfl rfl
  · exact (h.access _).store _ _ _

theorem Platform.MemoriesWf.settleWrites {p : Platform} (h : p.MemoriesWf) : p.settleWrites.MemoriesWf :=
  Platform.settleWrites_keeps (fun _ hq => hq.of_eq rfl rfl) (fun _ w hq => hq.performWrite w) p h

theorem Platform.MemoriesWf.performOverlapping {p : Platform} (h : p.MemoriesWf) (a : Long) (size : RefSize) :
    (p.performOverlapping a size).MemoriesWf :=
  Platform.performOverlapping_keeps (fun _ _ hq => hq.of_eq rfl rfl) (fun _ w hq => hq.performWrite w) p a size h

theorem Platform.MemoriesWf.drainWrite {p : Platform} (h : p.MemoriesWf) (k : Nat) : (p.drainWrite k).MemoriesWf := by
  obtain ⟨-, e⟩ | ⟨w, -, e⟩ := p.drainWrite_cases k <;> rw [e]
  · exact h
  · exact (h.of_eq (q := { p with wbuf := p.wbuf.eraseIdx k }) rfl rfl).performWrite w

theorem Platform.MemoriesWf.busMasterStore {p : Platform} (h : p.MemoriesWf) (a : Long) (v : Byte) :
    (p.busMasterStore a v).MemoriesWf := by
  obtain ⟨-, e⟩ | ⟨-, e⟩ := p.busMasterStore_cases a v <;> rw [e]
  · exact h
  · exact h.store _ _ _

theorem State.memoriesWf_operandRead {s : State} (h : s.plat.MemoriesWf) (r : Ref) : (s.operandRead r).2.plat.MemoriesWf := by
  obtain ⟨-, e⟩ | ⟨-, -, e⟩ | ⟨-, -, e⟩ := s.operandRead_cases r <;> rw [e]
  · exact h
  · exact h.access _
  · exact (h.access _).touch _

theorem State.memoriesWf_operandWrite {s : State} (h : s.plat.MemoriesWf) (r : Ref) (v : Long) :
    (s.operandWrite r v).2.plat.MemoriesWf := by
  obtain ⟨-, e⟩ | ⟨-, -, e⟩ | ⟨-, -, -, e⟩ | ⟨-, -, -, e⟩ := s.operandWrite_cases r v <;> rw [e]
  · exact ⟨h.mem, Memory.wf_writeSized h.sram⟩
  · exact h.of_eq rfl rfl
  · exact h.of_eq rfl rfl
  · exact (h.performOverlapping _ _).performWrite _

/-! ### The buffer -/

/-- With nothing pending the buffer's bookkeeping is sound. -/
theorem FillBuffer.Sound.of_idle {fb : FillBuffer} (h : fb.pending = []) : fb.Sound :=
  ⟨by simp [h], by simp [h], by simp [h]⟩

/-- A buffer left alone or emptied stays sound. -/
theorem FillBuffer.Sound.same_or_empty {fb fb' : FillBuffer} (h : fb.Sound) (e : fb' = fb ∨ fb' = fb.empty) : fb'.Sound := by
  obtain rfl | rfl := e
  · exact h
  · exact .of_idle rfl

/-- The longwords after the critical one are three, each once, and not the critical one (R90). -/
theorem restOfLine_nodup (lw : BitVec 2) : (lw :: restOfLine lw).Nodup := by
  obtain rfl | rfl | rfl | rfl := lw_cases lw <;> decide

/-- The first pending longword's arrival, the rest still pending. -/
theorem FillBuffer.Sound.arrive {fb : FillBuffer} {k : BitVec 2} {rest : List (BitVec 2)} (h : fb.Sound)
    (hp : fb.pending = k :: rest) (v : Long) : FillBuffer.Sound { (fb.arrive k v) with pending := rest } := by
  have hlen := h.atMostThree
  have hdistinct := h.distinct
  rw [hp] at hlen hdistinct
  obtain ⟨hk, hrest⟩ := List.nodup_cons.mp hdistinct
  refine ⟨(Nat.le_succ _).trans hlen, hrest, fun j hj => ?_⟩
  have hne : k ≠ j := fun e => hk (e ▸ hj)
  exact (fb.arrive_lwvalidAt k j v).trans ((if_neg hne).trans (h.notYetValid j (by rw [hp]; exact List.mem_cons_of_mem _ hj)))

/-- The critical longword's arrival in an emptied buffer, the other three pending (R91). -/
theorem FillBuffer.Sound.arriveLine {fb : FillBuffer} (h : ∀ k, fb.lwvalidAt k = false) (lw : BitVec 2) (v : Long) :
    FillBuffer.Sound { (fb.arrive lw v) with pending := restOfLine lw } := by
  obtain ⟨hcritical, hrest⟩ := List.nodup_cons.mp (restOfLine_nodup lw)
  refine ⟨le_rfl, hrest, fun j hj => ?_⟩
  have hne : lw ≠ j := fun e => hcritical (e ▸ hj)
  exact (fb.arrive_lwvalidAt lw j v).trans ((if_neg hne).trans (h j))

/-! ### The unit -/

/-- The unit's part of a sound state. -/
structure Cache.Sound (c : Cache) : Prop where
  regs : c.RegsClean
  buffer : c.fb.Sound
  sequencer : c.invLeft ≤ Config.invCycles

theorem Cache.RegsClean.of_sameRegs {c d : Cache} (h : c.RegsClean) (k : c.SameRegs d) : d.RegsClean :=
  ⟨k.cacr ▸ h.cacr, k.acr0 ▸ h.acr0, k.acr1 ▸ h.acr1⟩

/-- A value cut to a register's implemented bits has no other. -/
theorem and_mask_clean (v m : Long) : v &&& m &&& ~~~m = 0#32 := by
  rw [BitVec.and_assoc, BitVec.and_not_self]
  exact BitVec.and_zero

theorem Cache.Sound.withFb {c : Cache} (h : c.Sound) {fb : FillBuffer} (hfb : fb.Sound) : ({ c with fb := fb } : Cache).Sound :=
  ⟨⟨h.regs.cacr, h.regs.acr0, h.regs.acr1⟩, hfb, h.sequencer⟩

theorem Cache.Sound.setMru {c : Cache} (h : c.Sound) (b : Bool) : (c.setMru b).Sound :=
  h.withFb ⟨h.buffer.atMostThree, h.buffer.distinct, h.buffer.notYetValid⟩

theorem Cache.Sound.load {c : Cache} (h : c.Sound) (a : Long) (b : Bool) : (c.transfer.loadBuffer a b).Sound := by
  refine ⟨h.regs.of_sameRegs ⟨?_, ?_, ?_⟩, .of_idle rfl, ?_⟩
  · exact c.transfer_cacr
  · exact c.transfer_acr0
  · exact c.transfer_acr1
  · exact c.transfer_invLeft.trans_le h.sequencer

theorem Cache.Sound.invStep {c : Cache} (h : c.Sound) (clears : Bool) : (c.invStep clears).Sound := by
  refine ⟨h.regs.of_sameRegs (c.sameRegs_invStep clears), h.buffer.same_or_empty (c.invStep_fb clears), ?_⟩
  have hle := h.sequencer
  cases hn : c.invLeft with
  | zero => rwa [Cache.invStep_idle clears c hn]
  | succ n =>
    rw [hn] at hle
    rw [Cache.invStep_succ clears c n hn]
    exact (Nat.le_succ n).trans hle

theorem Cache.Sound.finishInvalidate {c : Cache} (h : c.Sound) (clears : Bool) : (c.finishInvalidate clears).Sound :=
  Cache.invSteps_keeps clears (fun _ hd => hd.invStep clears) _ c h

theorem Cache.Sound.writeCtrl {c : Cache} (h : c.Sound) (rc : CtrlReg) (v : Long) : (c.writeCtrl rc v).Sound := by
  obtain ⟨-, e⟩ | ⟨-, e⟩ | ⟨-, e⟩ := c.writeCtrl_cases rc v <;> rw [e]
  · refine ⟨⟨and_mask_clean v _, h.regs.acr0, h.regs.acr1⟩, h.buffer, ?_⟩
    show (if cinvBit v = true then Config.invCycles else c.invLeft) ≤ Config.invCycles
    split
    · exact le_rfl
    · exact h.sequencer
  · exact ⟨⟨h.regs.cacr, and_mask_clean v _, h.regs.acr1⟩, h.buffer, h.sequencer⟩
  · exact ⟨⟨h.regs.cacr, h.regs.acr0, and_mask_clean v _⟩, h.buffer, h.sequencer⟩

theorem Cache.Sound.pushLine {c : Cache} (h : c.Sound) (clears : Bool) (v : Long) : (c.pushLine clears v).Sound := by
  refine ⟨h.regs.of_sameRegs (c.sameRegs_pushLine clears v), h.buffer.same_or_empty (c.pushLine_fb clears v), ?_⟩
  obtain ⟨-, e⟩ | ⟨-, e⟩ := c.pushLine_cases clears v <;> rw [e] <;> exact h.sequencer

theorem Cache.Sound.hardwareReset (c : Cache) (n : Nat) : (c.hardwareReset n).Sound :=
  ⟨⟨by rw [Cache.hardwareReset_cacr, BitVec.zero_and], by rw [Cache.hardwareReset_acr0, BitVec.zero_and],
    by rw [Cache.hardwareReset_acr1, BitVec.zero_and]⟩, .of_idle rfl, Nat.zero_le _⟩

theorem State.sound_fillStep_cache {s : State} (h : s.cache.Sound) : s.fillStep.cache.Sound := by
  obtain ⟨-, e⟩ | ⟨k, rest, hp, ⟨-, e⟩ | ⟨-, e⟩⟩ := s.fillStep_cases <;> rw [e]
  · exact h
  · exact h.withFb (.of_idle rfl)
  · exact h.withFb (h.buffer.arrive hp _)

/-! ### The state -/

theorem State.sound_iff (s : State) : s.Sound ↔ s.cache.Sound ∧ s.plat.MemoriesWf :=
  ⟨fun h => ⟨⟨h.regs, h.buffer, h.sequencer⟩, ⟨h.mem, h.sram⟩⟩,
    fun ⟨hc, hp⟩ => ⟨hc.regs, hc.buffer, hc.sequencer, hp.mem, hp.sram⟩⟩

/-- Each of the changes a fetch is made of keeps a sound unit beside canonical memories. -/
theorem fetchClosed_sound : FetchClosed fun s => s.cache.Sound ∧ s.plat.MemoriesWf where
  fill s := by
    rintro ⟨hc, hp⟩
    refine ⟨State.sound_fillStep_cache hc, ?_⟩
    obtain ⟨-, e⟩ | ⟨k, rest, -, ⟨-, e⟩ | ⟨-, e⟩⟩ := s.fillStep_cases <;> rw [e]
    · exact hp
    · exact hp.access _
    · exact (hp.access _).touch _
  settle _ h := ⟨h.1, h.2.settleWrites⟩
  access _ x h := ⟨h.1, h.2.access x⟩
  touch _ a h := ⟨h.1, h.2.touch a⟩
  mru _ b h := ⟨h.1.setMru b, h.2⟩
  load _ a b h := ⟨h.1.load a b, h.2⟩
  arriveOne _ a h _ hp _ := ⟨h.1.withFb (.of_idle hp), h.2.touch a⟩
  arriveLine _ a h hv _ _ := ⟨h.1.withFb (.arriveLine hv _ _), h.2.touch a⟩

theorem State.Sound.fetch {s : State} (h : s.Sound) (r : Ref) : (s.fetch r).2.Sound := by
  rw [State.sound_iff] at h ⊢
  exact fetch_keeps fetchClosed_sound (fun _ h => h) (fun _ h => ⟨h.1.finishInvalidate _, h.2⟩) s r h

/-- Soundness speaks of the unit and of the two memories alone. -/
theorem State.Sound.of_parts {s t : State} (h : s.Sound) (hcache : t.cache.Sound) (hplat : t.plat = s.plat) : t.Sound :=
  (State.sound_iff t).mpr ⟨hcache, hplat ▸ ((State.sound_iff s).mp h).2⟩

theorem State.Sound.of_plat {s t : State} (h : s.Sound) (hcache : t.cache = s.cache) (hplat : t.plat.MemoriesWf) : t.Sound :=
  (State.sound_iff t).mpr ⟨hcache ▸ ((State.sound_iff s).mp h).1, hplat⟩

theorem State.Sound.exec {i : Instr} {s t : State} (h : s.Sound) (he : exec i s = .next t) : t.Sound := by
  obtain ⟨hc, -⟩ := (State.sound_iff s).mp h
  obtain ⟨-, rfl⟩ | ⟨rc, v, -, rfl⟩ | ⟨v, -, rfl⟩ := exec_next he
  · exact h.of_parts hc rfl
  · exact h.of_parts (hc.writeCtrl rc v) rfl
  · exact h.of_parts (hc.pushLine _ v) rfl

/-- Every move that answers a next state keeps a sound state sound. -/
theorem State.Moved.sound {s t : State} {m : Move} (hm : s.Moved m t) (h : s.Sound) : t.Sound := by
  obtain ⟨hc, hp⟩ := (State.sound_iff s).mp h
  have happend (u : State) (ws : List Half) (hu : u.Sound) : (u.appendWords ws).Sound :=
    hu.of_parts ((State.sound_iff u).mp hu).1 rfl
  cases hm with
  | instruction hfetch hexec =>
    exact (State.fetchInstruction_keeps (fun _ r hu => hu.fetch r) happend h hfetch).exec hexec
  | ahead r ws => exact happend _ ws (h.fetch r)
  | coreInstruction hfetch =>
    have hu := State.ensureWords_keeps (fun _ r hu => hu.fetch r) happend _ _ _ _ h hfetch
    exact hu.of_parts ((State.sound_iff _).mp hu).1 rfl
  | fetch r reply =>
    have hu := h.fetch { r with kind := .fetch }
    exact hu.of_parts ((State.sound_iff _).mp hu).1 rfl
  | operandRead r => exact h.of_plat (s.operandRead_cache _) (State.memoriesWf_operandRead hp _)
  | operandWrite r v => exact h.of_plat (s.operandWrite_cache _ v) (State.memoriesWf_operandWrite hp _ v)
  | fillStep => exact (State.sound_iff _).mpr (fetchClosed_sound.fill s ⟨hc, hp⟩)
  | invStep => exact h.of_parts (hc.invStep _) rfl
  | drainWrite k => exact h.of_plat rfl (hp.drainWrite k)
  | busMasterStore a v => exact h.of_plat rfl (hp.busMasterStore a v)
  | deliverError k =>
    obtain ⟨-, e⟩ | ⟨-, -, e⟩ := s.deliverError_cases k <;> rw [e]
    · exact h
    · exact h.of_plat rfl (hp.of_eq rfl rfl)
  | debugWrite rc v => exact h.of_parts (hc.writeCtrl rc v) rfl
  | debugInvalidate a => exact h.of_parts (hc.pushLine _ a) rfl
  | setBdm on => exact h.of_plat rfl (hp.of_eq rfl rfl)
  | hardwareReset => exact h.of_parts (.hardwareReset s.cache s.draws) rfl
  | coreSetReg | coreJump | coreSetSr | bdmRead => exact h.of_parts hc rfl

end Sys2Proof.Machine

namespace Sys2Proof.Proofs

open Sys2Proof Sys2Proof.Machine

/-- Settles O57: a step is one move, and the agenda is no part of soundness. -/
theorem stepKeepsSound : Obligations.StepKeepsSound := by
  unfold Obligations.StepKeepsSound
  intro s t hs h
  obtain ⟨m, rest, -, hm⟩ := step_moved h
  exact hm.sound (hs.of_parts ((State.sound_iff s).mp hs).1 rfl)

end Sys2Proof.Proofs

/-! SUPPORT. Coherence (20_memory.md sections 7 and 8, 70_reset_and_hazards.md section 3): what brings nothing stale into the cache,
what a fetch in a coherent state is answered, and which stores invalidating one entry makes good. -/

namespace Sys2Proof.Machine

/-! ### The buffer and the array beside memory -/

/-- Each valid longword of the buffer is what memory holds. -/
def FillBuffer.Coherent (fb : FillBuffer) (m : Memory) : Prop :=
  ∀ k, fb.lwvalidAt k = true → fb.dataAt k = Memory.readLong m (lineLong fb.addr k)

theorem FillBuffer.Coherent.of_none {fb : FillBuffer} (h : ∀ k, fb.lwvalidAt k = false) (m : Memory) : fb.Coherent m := by
  intro k hk
  rw [h] at hk
  cases hk

/-- A buffer left alone or emptied stays coherent. -/
theorem FillBuffer.Coherent.same_or_empty {fb fb' : FillBuffer} {m : Memory} (h : fb.Coherent m)
    (e : fb' = fb ∨ fb' = fb.empty) : fb'.Coherent m := by
  obtain rfl | rfl := e
  · exact h
  · exact .of_none fb.empty_lwvalidAt m

/-- A longword that arrives as memory holds it brings nothing stale. -/
theorem FillBuffer.Coherent.arrive {fb : FillBuffer} {m : Memory} (h : fb.Coherent m) {k : BitVec 2} {v : Long}
    (hv : v = Memory.readLong m (lineLong fb.addr k)) : (fb.arrive k v).Coherent m := by
  intro j hj
  rw [FillBuffer.arrive_lwvalidAt] at hj
  rw [FillBuffer.arrive_dataAt]
  by_cases e : k = j
  · subst e
    rw [if_pos rfl]
    exact hv
  · rw [if_neg e] at hj ⊢
    exact h j hj

/-- An array with no further valid entry stays coherent. -/
theorem Cache.Coherent.of_keepsLines {c d : Cache} {m : Memory} (h : c.Coherent m) (hk : c.KeepsLines d)
    (hfb : d.fb.Coherent m) : d.Coherent m := by
  refine ⟨fun i k hi => ?_, hfb⟩
  rw [hk.dataAt, hk.tagAt]
  exact h.array i k (hk.valid i hi)

/-- The same array with another coherent buffer. -/
theorem Cache.Coherent.withFb {c : Cache} {m : Memory} (h : c.Coherent m) {fb : FillBuffer} (hfb : fb.Coherent m) :
    ({ c with fb := fb } : Cache).Coherent m :=
  h.of_keepsLines (.of_eq rfl rfl rfl) hfb

/-- A buffer taken over holds nothing (R91). -/
theorem Cache.Coherent.loadBuffer {c : Cache} {m : Memory} (h : c.Coherent m) (a : Long) (b : Bool) :
    (c.loadBuffer a b).Coherent m :=
  h.withFb (FillBuffer.Coherent.of_none (fb := (c.loadBuffer a b).fb) (fun k => look_replicate _ k _) m)

/-- The line transfer moves longwords that are memory's to the entry of their own address (R95). -/
theorem Cache.Coherent.transfer {c : Cache} {m : Memory} (h : c.Coherent m) : c.transfer.Coherent m := by
  obtain ⟨hallowed, -⟩ | ⟨-, e⟩ := c.transfer_cases
  · refine ⟨fun i k hi => ?_, by rw [Cache.transfer_fb]; exact h.buffer⟩
    rw [Cache.transfer_dataAt hallowed, Cache.transfer_tagAt hallowed]
    by_cases hidx : i = c.fb.idx
    · obtain ⟨hentire, -⟩ := c.transferAllowed_iff.mp hallowed
      rw [if_pos hidx, if_pos hidx, hidx, FillBuffer.lineAddr_tag_idx]
      exact h.buffer k (hentire k)
    · rw [Cache.transfer_validAt hallowed, if_neg hidx] at hi
      rw [if_neg hidx, if_neg hidx]
      exact h.array i k hi
  · rwa [e]

/-- An array hit in a coherent unit holds memory's longword. -/
theorem Cache.Coherent.dataAt_of_arrayHit {c : Cache} {m : Memory} (h : c.Coherent m) {a : Long}
    (ha : c.arrayHit a = true) : c.dataAt (dataIdx a) = Memory.readLong m (longBase a) := by
  obtain ⟨hvalid, htag⟩ := (Cache.arrayHit_iff c a).mp ha
  rw [dataIdx_eq, h.array _ _ hvalid, htag, ← lineOf_eq, ← longBase_eq]

/-- So does a buffer hit. -/
theorem Cache.Coherent.dataAt_of_hit {c : Cache} {m : Memory} (h : c.Coherent m) {a : Long} (ha : c.fb.hit a = true) :
    c.fb.dataAt (lwOf a) = Memory.readLong m (longBase a) := by
  obtain ⟨haddr, hvalid⟩ := (FillBuffer.hit_iff _ a).mp ha
  rw [h.buffer _ hvalid, haddr, ← longBase_eq]

/-! ### A coherent unit beside a quiet bus -/

/-- The cache is coherent with the memory `m`, which is what the bus holds, and the bus is quiet. -/
structure State.CoherentOver (s : State) (m : Memory) : Prop where
  cache : s.cache.Coherent m
  mem : s.plat.mem = m
  quiet : s.plat.Quiet

theorem Platform.Quiet.busErrorAt {p : Platform} (h : p.Quiet) (a : Long) : p.busErrorAt a = false :=
  Platform.busErrorAt_none h.noErrors a

theorem Platform.Quiet.deviceAt {p : Platform} (h : p.Quiet) (a : Long) : p.deviceAt a = false :=
  p.deviceAt_none a h.noDevices

theorem Platform.Quiet.settleWrites {p : Platform} (h : p.Quiet) : p.settleWrites = p := p.settleWrites_nil h.noWrites

theorem Platform.Quiet.touch {p : Platform} (h : p.Quiet) (a : Long) : p.touch a = p := p.touch_none a (h.deviceAt a)

theorem Platform.Quiet.access {p : Platform} (h : p.Quiet) (x : ExtAccess) : (p.access x).Quiet :=
  ⟨h.noWrites, h.noErrors, h.noDevices⟩

/-- On a quiet bus a read is answered by memory. -/
theorem State.CoherentOver.externalRead {s : State} {m : Memory} (h : s.CoherentOver m) (a : Long) (size : RefSize) :
    s.plat.externalRead a size = Memory.readSized m a size := by
  rw [Platform.externalRead_none _ _ _ (h.quiet.deviceAt a), h.mem]

theorem State.CoherentOver.withCache {s : State} {m : Memory} (h : s.CoherentOver m) {c : Cache} (hc : c.Coherent m) :
    State.CoherentOver { s with cache := c } m := ⟨hc, h.mem, h.quiet⟩

theorem State.CoherentOver.access {s : State} {m : Memory} (h : s.CoherentOver m) (x : ExtAccess) :
    State.CoherentOver { s with plat := s.plat.access x } m := ⟨h.cache, h.mem, h.quiet.access x⟩

/-- The engine brings in what memory holds. -/
theorem State.CoherentOver.fillStep {s : State} {m : Memory} (h : s.CoherentOver m) : s.fillStep.CoherentOver m := by
  obtain ⟨-, e⟩ | ⟨k, rest, -, ⟨herr, -⟩ | ⟨-, e⟩⟩ := s.fillStep_cases
  · rwa [e]
  · rw [h.quiet.busErrorAt] at herr
    cases herr
  · have hacc := h.access (.beat (lineLong s.cache.fb.addr k))
    rw [e, hacc.quiet.touch]
    exact hacc.withCache (h.cache.withFb (FillBuffer.Coherent.arrive h.cache.buffer (h.externalRead _ _)))

/-- Each of the changes a fetch is made of keeps coherence beside a quiet bus. -/
theorem fetchClosed_coherentOver (m : Memory) : FetchClosed fun s => s.CoherentOver m where
  fill _ h := h.fillStep
  settle s h := by rwa [h.quiet.settleWrites]
  access _ x h := h.access x
  touch s a h := by rwa [h.quiet.touch]
  mru _ _ h := h.withCache (h.cache.withFb h.cache.buffer)
  load _ a b h := h.withCache (h.cache.transfer.loadBuffer a b)
  arriveOne s a h _ _ haddr := by
    rw [h.quiet.touch]
    refine h.withCache (h.cache.withFb (FillBuffer.Coherent.arrive h.cache.buffer ?_))
    rw [h.externalRead, haddr, longBase_eq]
    rfl
  arriveLine s a h _ _ haddr := by
    rw [h.quiet.touch]
    refine h.withCache (h.cache.withFb (FillBuffer.Coherent.arrive h.cache.buffer ?_))
    rw [h.externalRead, haddr, longBase_eq]
    rfl

theorem Cache.Coherent.finishInvalidate {c : Cache} {m : Memory} (h : c.Coherent m) (clears : Bool) :
    (c.finishInvalidate clears).Coherent m :=
  h.of_keepsLines (c.keepsLines_finishInvalidate clears)
    (FillBuffer.Coherent.same_or_empty h.buffer (c.finishInvalidate_fb clears))

theorem State.CoherentOver.finishInvalidate {s : State} {m : Memory} (h : s.CoherentOver m) :
    s.finishInvalidate.CoherentOver m :=
  h.withCache (h.cache.finishInvalidate _)

theorem State.CoherentOver.fetch {s : State} {m : Memory} (h : s.CoherentOver m) (r : Ref) :
    (s.fetch r).2.CoherentOver m :=
  fetch_keeps (fetchClosed_coherentOver m) (fun _ h => ⟨h.cache, h.mem, h.quiet⟩) (fun _ h => h.finishInvalidate) s r h

/-! ### Every move that stores nothing (R51, R53) -/

theorem Cache.Coherent.invStep {c : Cache} {m : Memory} (h : c.Coherent m) (clears : Bool) : (c.invStep clears).Coherent m :=
  h.of_keepsLines (c.keepsLines_invStep clears) (FillBuffer.Coherent.same_or_empty h.buffer (c.invStep_fb clears))

theorem Cache.Coherent.writeCtrl {c : Cache} {m : Memory} (h : c.Coherent m) (rc : CtrlReg) (v : Long) :
    (c.writeCtrl rc v).Coherent m := by
  refine h.of_keepsLines (c.keepsLines_writeCtrl rc v) ?_
  obtain ⟨-, e⟩ | ⟨-, e⟩ | ⟨-, e⟩ := c.writeCtrl_cases rc v <;> rw [e] <;> exact h.buffer

theorem Cache.Coherent.pushLine {c : Cache} {m : Memory} (h : c.Coherent m) (clears : Bool) (v : Long) :
    (c.pushLine clears v).Coherent m :=
  h.of_keepsLines (c.keepsLines_pushLine clears v) (FillBuffer.Coherent.same_or_empty h.buffer (c.pushLine_fb clears v))

theorem Cache.Coherent.hardwareReset {c : Cache} {m : Memory} (h : c.Coherent m) (n : Nat) :
    (c.hardwareReset n).Coherent m :=
  h.of_keepsLines (c.keepsLines_hardwareReset n)
    (FillBuffer.Coherent.of_none (fb := (c.hardwareReset n).fb) (fun k => look_replicate _ k _) m)

theorem State.CoherentOver.exec {i : Instr} {s t : State} {m : Memory} (h : s.CoherentOver m) (he : exec i s = .next t) :
    t.CoherentOver m := by
  obtain ⟨-, rfl⟩ | ⟨rc, v, -, rfl⟩ | ⟨v, -, rfl⟩ := exec_next he
  · exact ⟨h.cache, h.mem, h.quiet⟩
  · exact ⟨h.cache.writeCtrl rc v, h.mem, h.quiet⟩
  · exact ⟨h.cache.pushLine _ v, h.mem, h.quiet⟩

theorem State.CoherentOver.operandRead {s : State} {m : Memory} (h : s.CoherentOver m) (r : Ref) :
    (s.operandRead r).2.CoherentOver m := by
  obtain ⟨-, e⟩ | ⟨-, -, e⟩ | ⟨-, -, e⟩ := s.operandRead_cases r <;> rw [e]
  · exact h
  · exact h.access _
  · rw [(h.access (.operandRead r.addr r.size)).quiet.touch]
    exact h.access _

/-- A write into the SRAM module and a protected one leave memory and the write buffer (D18). -/
theorem State.CoherentOver.operandWrite {s : State} {m : Memory} (h : s.CoherentOver m) {r : Ref}
    (hr : s.plat.sramMaps r = true ∨ (s.cache.effAttr r).wp = true) (v : Long) : (s.operandWrite r v).2.CoherentOver m := by
  obtain ⟨-, e⟩ | ⟨-, -, e⟩ | ⟨hm, hp, -⟩ | ⟨hm, hp, -⟩ := s.operandWrite_cases r v
  · rw [e]
    exact ⟨h.cache, h.mem, ⟨h.quiet.noWrites, h.quiet.noErrors, h.quiet.noDevices⟩⟩
  · rw [e]
    exact ⟨h.cache, h.mem, ⟨h.quiet.noWrites, h.quiet.noErrors, h.quiet.noDevices⟩⟩
  · simp [hm, hp] at hr
  · simp [hm, hp] at hr

/-- Every move that puts no store on its way keeps a coherent state coherent. -/
theorem State.Moved.coherentOver {s t : State} {mv : Move} {m : Memory} (hm : s.Moved mv t) (hs : mv.mayStore s = false)
    (h : s.CoherentOver m) : t.CoherentOver m := by
  have happend (u : State) (ws : List Half) (hu : u.CoherentOver m) : (u.appendWords ws).CoherentOver m :=
    ⟨hu.cache, hu.mem, hu.quiet⟩
  cases hm with
  | instruction hfetch hexec =>
    exact (State.fetchInstruction_keeps (fun _ r hu => hu.fetch r) happend h hfetch).exec hexec
  | ahead r ws => exact happend _ ws (h.fetch r)
  | coreInstruction hfetch =>
    have hu := State.ensureWords_keeps (fun _ r hu => hu.fetch r) happend _ _ _ _ h hfetch
    exact ⟨hu.cache, hu.mem, hu.quiet⟩
  | fetch r reply =>
    have hu := h.fetch { r with kind := .fetch }
    exact ⟨hu.cache, hu.mem, hu.quiet⟩
  | operandRead r reply =>
    have hu := h.operandRead { r with kind := .read }
    exact ⟨hu.cache, hu.mem, hu.quiet⟩
  | operandWrite r v reply =>
    have hr : s.plat.sramMaps { r with kind := .write } = true ∨ (s.cache.effAttr { r with kind := .write }).wp = true := by
      simpa [Move.mayStore, ← Bool.not_eq_true, imp_iff_not_or] using hs
    have hu := h.operandWrite hr v
    exact ⟨hu.cache, hu.mem, hu.quiet⟩
  | fillStep => exact h.fillStep
  | invStep => exact h.withCache (h.cache.invStep _)
  | drainWrite k =>
    obtain ⟨-, e⟩ | ⟨w, hw, -⟩ := s.plat.drainWrite_cases k
    · rw [e]
      exact h
    · simp [h.quiet.noWrites] at hw
  | busMasterStore => cases hs
  | deliverError k =>
    obtain ⟨-, e⟩ | ⟨-, -, e⟩ := s.deliverError_cases k <;> rw [e]
    · exact h
    · exact ⟨h.cache, h.mem, ⟨h.quiet.noWrites, h.quiet.noErrors, h.quiet.noDevices⟩⟩
  | debugWrite rc v => exact ⟨h.cache.writeCtrl rc v, h.mem, h.quiet⟩
  | debugInvalidate a => exact ⟨h.cache.pushLine _ a, h.mem, h.quiet⟩
  | setBdm on => exact ⟨h.cache, h.mem, ⟨h.quiet.noWrites, h.quiet.noErrors, h.quiet.noDevices⟩⟩
  | hardwareReset => exact ⟨h.cache.hardwareReset _, h.mem, h.quiet⟩
  | coreSetReg | coreJump | coreSetSr | bdmRead => exact ⟨h.cache, h.mem, h.quiet⟩

/-! ### What a fetch is answered in a coherent state (R53, R154) -/

/-- What a fetch is answered where nothing stale is held: memory's word with the cache disabled, for a word asked for at an odd
word address, else memory's longword. -/
def memoryAnswer (m : Memory) (c : Cache) (r : Ref) : Fetched :=
  if c.cenb = false ∧ r.addr.getLsbD 1 = true ∧ r.size = .word then .word (Memory.readHalf m r.addr)
  else .longword (Memory.readLong m (longBase r.addr))

theorem State.CoherentOver.extLongword {s : State} {m : Memory} (h : s.CoherentOver m) (a : Long) :
    (s.extLongword a).1 = .longword (Memory.readLong m (longBase a)) := by
  rw [State.extLongword_ok (h.quiet.busErrorAt a), h.quiet.settleWrites, h.externalRead]
  rfl

theorem State.CoherentOver.extWord {s : State} {m : Memory} (h : s.CoherentOver m) (a : Long) :
    (s.extWord a).1 = .word (Memory.readHalf m a) := by
  rw [State.extWord_ok (h.quiet.busErrorAt a), h.quiet.settleWrites, h.externalRead, Memory.readSized,
    BitVec.setWidth_setWidth_of_le _ (by decide), BitVec.setWidth_eq]

theorem State.CoherentOver.miss {s : State} {m : Memory} (h : s.CoherentOver m) (a : Long) (b : Bool) :
    (s.miss a b).1 = .longword (Memory.readLong m (longBase a)) := by
  have hfill : s.finishFill.CoherentOver m := (fetchClosed_coherentOver m).fillSteps _ s h
  have htake : (s.finishFill.takeOver a b).CoherentOver m := (fetchClosed_coherentOver m).load _ a b hfill
  have hok := htake.quiet.busErrorAt a
  obtain e | e := s.miss_cases a b
  · rw [e, State.lineFetch_ok hok, htake.quiet.settleWrites, htake.externalRead]
    rfl
  · rw [e, State.longwordFetch_ok hok, htake.quiet.settleWrites, htake.externalRead]
    rfl

theorem State.CoherentOver.bufferedFetch {s : State} {m : Memory} (h : s.CoherentOver m) (a : Long) (b : Bool) :
    (s.bufferedFetch a b).1 = .longword (Memory.readLong m (longBase a)) := by
  have hwait := (fetchClosed_coherentOver m).await a s.cache.fb.pending.length s h
  simp only [State.bufferedFetch]
  split
  · next hhit => exact congrArg _ (hwait.cache.dataAt_of_hit hhit)
  · split
    · next harray =>
      rw [Bool.and_eq_true] at harray
      exact congrArg _ (hwait.cache.dataAt_of_arrayHit harray.1)
    · exact hwait.miss a b

theorem State.CoherentOver.cacheFetch {s : State} {m : Memory} (h : s.CoherentOver m) (r : Ref) :
    (s.cacheFetch r).1 = memoryAnswer m s.cache r := by
  cases he : s.cache.cenb
  · have hcf : s.cacheFetch r = s.uncachedFetch r := by simp [State.cacheFetch, he]
    simp only [hcf, State.uncachedFetch_eq, memoryAnswer, he, true_and]
    split
    · exact h.extWord _
    · exact h.extLongword _
  · have hanswer : memoryAnswer m s.cache r = .longword (Memory.readLong m (longBase r.addr)) := by
      simp [memoryAnswer, he]
    rw [hanswer]
    by_cases hpart : (s.cache.effAttr r).cacheable = true ∨ s.cache.ceib = true
    · rw [State.cacheFetch_buffered he hpart]
      exact h.bufferedFetch _ _
    · simp only [not_or, Bool.not_eq_true] at hpart
      obtain ⟨hc, hb⟩ := hpart
      rw [State.cacheFetch_unbuffered he hc hb]
      simp only [State.noncacheableFetch]
      split
      · next harray =>
        rw [Bool.and_eq_true] at harray
        exact congrArg _ (h.cache.dataAt_of_arrayHit harray.1)
      · exact h.extLongword _

/-- The hold can only end the time before the first invalidation (R147). -/
theorem Cache.finishInvalidate_cold (clears : Bool) (c : Cache) :
    (c.finishInvalidate clears).cold = c.cold ∨ (c.finishInvalidate clears).cold = false := by
  obtain ⟨valid, e, -⟩ := Cache.invSteps_to_end clears c.invLeft c rfl
  rw [Cache.finishInvalidate, e]
  by_cases hn : c.invLeft = 0
  · exact .inl (if_pos hn)
  · exact .inr (if_neg hn)

theorem State.booted_finishInvalidate {s : State} (h : s.booted = true) : s.finishInvalidate.booted = true := by
  have hcenb : s.finishInvalidate.cache.cenb = s.cache.cenb := by
    rw [Cache.cenb, State.finishInvalidate_cache, Cache.finishInvalidate_cacr, Cache.cenb]
  rw [State.booted, hcenb, State.finishInvalidate_cache]
  obtain e | e := s.cache.finishInvalidate_cold Config.cinvClearsFillbuf <;> rw [e]
  · exact h
  · exact Bool.or_true _

/-- With the boot rule kept a fetch outside the SRAM module is the fetch past the hold, with no free value drawn (R147). -/
theorem State.fetch_booted {s : State} {r : Ref} (hb : s.booted = true) (hm : s.plat.sramMaps r = false) :
    s.fetch r = s.finishInvalidate.cacheFetch r := by
  have hwarm : (s.finishInvalidate.cache.cenb && s.finishInvalidate.cache.cold) = false := by
    have hb' := State.booted_finishInvalidate hb
    rw [State.booted] at hb'
    revert hb'
    cases s.finishInvalidate.cache.cenb <;> simp
  simp only [State.fetch, State.finishInvalidate_plat, hm, hwarm, Bool.false_eq_true, if_false]

theorem State.CoherentOver.fetch_answer {s : State} {m : Memory} (h : s.CoherentOver m) (hb : s.booted = true) {r : Ref}
    (hm : s.plat.sramMaps r = false) : (s.fetch r).1 = memoryAnswer m s.cache r := by
  have hcenb : s.finishInvalidate.cache.cenb = s.cache.cenb := by
    rw [Cache.cenb, State.finishInvalidate_cache, Cache.finishInvalidate_cacr, Cache.cenb]
  rw [State.fetch_booted hb hm, h.finishInvalidate.cacheFetch r, memoryAnswer, hcenb, memoryAnswer]

/-! ### Invalidating the entry of an address written (R148) -/

/-- No byte of an aligned operand lies outside the operand's longword. -/
theorem longNumber_add {a : Long} {j : Nat} (h : a.toNat % 4 + j < 4) : longNumber (a + BitVec.ofNat 32 j) = longNumber a := by
  refine BitVec.eq_of_toNat_eq ?_
  simp only [longNumber, BitVec.extractLsb'_toNat, BitVec.toNat_add, BitVec.toNat_ofNat, Nat.shiftRight_eq_div_pow]
  have ha := a.isLt
  omega

theorem RefSize.toNat_mod_of_aligned {a : Long} {size : RefSize} (h : size.aligned a = true) :
    a.toNat % size.bytes = 0 := by
  cases size with
  | byte => exact Nat.mod_one _
  | word =>
    simp only [RefSize.aligned, Bool.not_eq_true', BitVec.getLsbD, Nat.testBit_eq_decide_div_mod_eq,
      decide_eq_false_iff_not] at h
    rw [RefSize.bytes]
    omega
  | longword =>
    simp only [RefSize.aligned, Bool.and_eq_true, Bool.not_eq_true', BitVec.getLsbD, Nat.testBit_eq_decide_div_mod_eq,
      decide_eq_false_iff_not] at h
    rw [RefSize.bytes]
    omega

theorem longNumber_of_mem_operandBytes {a b : Long} {size : RefSize} (h : size.aligned a = true)
    (hb : b ∈ operandBytes a size) : longNumber b = longNumber a := by
  obtain ⟨j, hj, rfl⟩ := mem_operandBytes.mp hb
  refine longNumber_add ?_
  have ha := RefSize.toNat_mod_of_aligned h
  cases size <;> rw [RefSize.bytes] at ha hj <;> omega

/-- The array index is part of the longword's number. -/
theorem idxOf_congr {a b : Long} (h : longNumber a = longNumber b) : idxOf a = idxOf b := by
  have hpart (x : Long) : idxOf x = (longNumber x).extractLsb' 2 5 := by
    ext n hn
    interval_cases n <;> simp [idxOf, longNumber]
  rw [hpart, h, ← hpart]

theorem aligned_lineLong (l : BitVec 28) (k : BitVec 2) : RefSize.longword.aligned (lineLong l k) = true := by
  simp [RefSize.aligned, lineLong]

theorem idxOf_lineLong (l : BitVec 28) (k : BitVec 2) : idxOf (lineLong l k) = l.extractLsb' 0 5 := by
  ext n hn
  interval_cases n <;> simp [idxOf, lineLong]

theorem idxOf_lineLong_lineAddr (t : BitVec 23) (i : BitVec 5) (k : BitVec 2) : idxOf (lineLong (lineAddr t i) k) = i := by
  rw [idxOf_lineLong]
  ext n hn
  interval_cases n <;> simp [lineAddr]

/-- A write of an aligned operand leaves every longword of a line at another index. -/
theorem Memory.readLong_writeSized_of_idx_ne {m : Memory} (hwf : m.wf = true) {a b : Long} {size : RefSize}
    (ha : size.aligned a = true) (hb : RefSize.longword.aligned b = true) (hne : idxOf b ≠ idxOf a) (v : Long) :
    (m.writeSized a size v).readLong b = m.readLong b := by
  refine Memory.readSized_writeSized_disjoint (size := .longword) hwf fun x hx hx' => hne ?_
  rw [← idxOf_congr (longNumber_of_mem_operandBytes hb hx), idxOf_congr (longNumber_of_mem_operandBytes ha hx')]

/-- After a store of an aligned operand, the entry of its address invalidated and its buffer emptied, nothing held is stale. -/
theorem Cache.Coherent.pushLine_writeSized {c : Cache} {m : Memory} (h : c.Coherent m) (hwf : m.wf = true)
    (hcpdi : c.cpdi = false) {a : Long} {size : RefSize} (ha : size.aligned a = true) (v : Long) :
    (c.pushLine Config.cpushlClearsFillbuf a).Coherent (m.writeSized a size v) := by
  rw [Cache.pushLine_eq hcpdi]
  refine ⟨fun i k hi => ?_, fun k hk => ?_⟩
  · have hput : look (put c.valid (idxOf a) false) i = true := hi
    rw [look_put] at hput
    split at hput
    · cases hput
    · next hne =>
      refine (h.array i k hput).trans (Memory.readLong_writeSized_of_idx_ne hwf ha (aligned_lineLong _ _) ?_ v).symm
      rw [idxOf_lineLong_lineAddr]
      exact Ne.symm hne
  · by_cases hown : idxOf a = c.fb.idx
    · simp only [if_pos hown, FillBuffer.empty_lwvalidAt] at hk
      cases hk
    · simp only [if_neg hown] at hk ⊢
      refine (h.buffer k hk).trans (Memory.readLong_writeSized_of_idx_ne hwf ha (aligned_lineLong _ _) ?_ v).symm
      rw [idxOf_lineLong]
      exact Ne.symm hown

/-- On a quiet bus an unbuffered write is its store. -/
theorem State.operandWrite_mem_of_quiet {s : State} {r : Ref} (hq : s.plat.Quiet) (hm : s.plat.sramMaps r = false)
    (hp : (s.cache.effAttr r).wp = false) (hb : (s.cache.effAttr r).bufwrite = false) (v : Long) :
    (s.operandWrite r v).2.plat.mem = Memory.writeSized s.plat.mem r.addr r.size v := by
  have hnone : s.plat.performOverlapping r.addr r.size = s.plat :=
    s.plat.performOverlapping_none _ _ (by simp [hq.noWrites])
  rw [State.operandWrite_memory hm hp hb (hq.busErrorAt _) (hq.deviceAt _), hnone]

/-- Another master's store where the bus reports no error and no device answers. -/
theorem Platform.busMasterStore_memory {p : Platform} {x : Long} (herr : p.busErrorAt x = false) (hd : p.deviceAt x = false)
    (b : Byte) : p.busMasterStore x b = { p with mem := Memory.writeSized p.mem x .byte (b.setWidth 32) } := by
  obtain ⟨hbad, -⟩ | ⟨-, e⟩ := p.busMasterStore_cases x b
  · rw [herr] at hbad
    cases hbad
  · rw [e, Platform.store_none _ _ _ _ hd]

/-! ### A fetch that hits does not see a store (R51) -/

/-- What a fetch that hits is answered: the buffer's longword, if it takes part and holds it, else the array's. -/
def Cache.hitValue (c : Cache) (r : Ref) : Long :=
  if ((c.effAttr r).cacheable = true ∨ c.ceib = true) ∧ c.fb.hit r.addr = true then c.fb.dataAt (lwOf r.addr)
  else c.dataAt (dataIdx r.addr)

/-- A fetch of a warm, enabled cache hits: in the buffer, or in the array with its longword not on its way. -/
structure Cache.Hits (c : Cache) (r : Ref) : Prop where
  idle : c.invLeft = 0
  warm : c.cold = false
  enabled : c.cenb = true
  hit : (((c.effAttr r).cacheable = true ∨ c.ceib = true) ∧ c.fb.hit r.addr = true) ∨
    (((c.effAttr r).cacheable = true ∨ Config.noncacheableHitsArray = true) ∧
      c.arrayHit r.addr = true ∧ c.fb.onItsWay r.addr = false)

/-- Such a fetch is answered by what the unit holds. -/
theorem State.fetch_hitValue {s : State} {r : Ref} (h : s.cache.Hits r) (hm : s.plat.sramMaps r = false) :
    (s.fetch r).1 = .longword (s.cache.hitValue r) := by
  rw [State.fetch_warm h.idle hm h.warm, Cache.hitValue]
  by_cases hbuf : ((s.cache.effAttr r).cacheable = true ∨ s.cache.ceib = true) ∧ s.cache.fb.hit r.addr = true
  · rw [if_pos hbuf, State.cacheFetch_buffered h.enabled hbuf.1, State.bufferedFetch_hit hbuf.2]
    rfl
  · obtain ⟨hmay, harray, hway⟩ := h.hit.resolve_left hbuf
    rw [if_neg hbuf, State.cacheFetch_arrayHit h.enabled hmay
      (fun hpart => ⟨by simpa [hpart] using hbuf, hway⟩) harray]
    rfl

/-- So what the bus side holds makes no difference to it. -/
theorem State.fetch_answer_of_hits {s t : State} {r : Ref} (h : s.cache.Hits r) (hm : s.plat.sramMaps r = false)
    (hcache : t.cache = s.cache) (hmap : t.plat.sramMap = s.plat.sramMap) : (t.fetch r).1 = (s.fetch r).1 := by
  have hm' : t.plat.sramMaps r = false := by rwa [Platform.sramMaps, hmap]
  rw [State.fetch_hitValue h hm, State.fetch_hitValue (hcache ▸ h) hm', hcache]

@[simp] theorem Platform.performWrite_sramMap (p : Platform) (w : BusWrite) : (p.performWrite w).sramMap = p.sramMap := by
  obtain ⟨-, e⟩ | ⟨-, e⟩ := p.performWrite_cases w <;> rw [e]
  simp

theorem State.operandWrite_sramMap (s : State) (r : Ref) (v : Long) :
    (s.operandWrite r v).2.plat.sramMap = s.plat.sramMap := by
  obtain ⟨-, e⟩ | ⟨-, -, e⟩ | ⟨-, -, -, e⟩ | ⟨-, -, -, e⟩ := s.operandWrite_cases r v <;> rw [e] <;> simp

theorem Platform.busMasterStore_sramMap (p : Platform) (x : Long) (b : Byte) :
    (p.busMasterStore x b).sramMap = p.sramMap := by
  obtain ⟨-, e⟩ | ⟨-, e⟩ := p.busMasterStore_cases x b <;> rw [e]
  simp

/-- A byte-sized store writes the one byte. -/
theorem Memory.readByte_writeSized_byte {m : Memory} (hwf : m.wf = true) (x : Long) (b : Byte) (y : Nat) :
    (m.writeSized x .byte (b.setWidth 32)).readByte y = if y = x.toNat then b else m.readByte y := by
  have hbyte : (b.setWidth 32).extractLsb' 0 8 = b := by
    ext n hn
    interval_cases n <;> simp
  rw [Memory.writeSized, RefSize.split, hbyte, Memory.writeBytes, Memory.writeBytes, Memory.readByte_writeByte hwf]

end Sys2Proof.Machine

namespace Sys2Proof.Proofs

open Sys2Proof Sys2Proof.Machine

/-- Settles O49: a step is one move, and the agenda is no part of coherence. -/
theorem stepKeepsCoherence : Obligations.StepKeepsCoherence := by
  unfold Obligations.StepKeepsCoherence
  intro s t hc hq hstore h
  obtain ⟨m, rest, ha, hm⟩ := step_moved h
  have hs : m.mayStore { s with agenda := rest } = false := by
    obtain ha | ⟨-, rfl, -⟩ := ha
    · have hsame : m.mayStore { s with agenda := rest } = m.mayStore s := by cases m <;> rfl
      rw [hsame]
      exact hstore m rest ha
    · rfl
  have ht := hm.coherentOver hs ⟨hc, rfl, hq⟩
  exact ⟨ht.mem.symm ▸ ht.cache, ht.quiet⟩

/-- Settles O48: what is held is memory's, and what is not held comes from memory. -/
theorem coherentFetchReturnsMemory : Obligations.CoherentFetchReturnsMemory := by
  unfold Obligations.CoherentFetchReturnsMemory
  exact fun s r hc hq hb hm => State.CoherentOver.fetch_answer ⟨hc, rfl, hq⟩ hb hm

/-- Settles O50: both stores are of an aligned operand, and the entry of its address is invalidated. -/
theorem invalidatingRestoresCoherence : Obligations.InvalidatingRestoresCoherence := by
  unfold Obligations.InvalidatingRestoresCoherence
  refine fun s hc hq hwf hcpdi => ⟨fun r v hm hp hb ha => ?_, fun x b => ⟨_, rfl, ?_⟩⟩
  · rw [State.pushLine_cache, State.pushLine_plat, State.operandWrite_cache, State.operandWrite_mem_of_quiet hq hm hp hb]
    exact hc.pushLine_writeSized hwf hcpdi ha v
  · rw [State.pushLine_cache, State.pushLine_plat, Platform.busMasterStore_memory (hq.busErrorAt x) (hq.deviceAt x)]
    exact hc.pushLine_writeSized hwf hcpdi (size := .byte) rfl _

/-- Settles O47: a fetch that hits is answered by the unit, which no store changes. -/
theorem storeNotSeenByHit : Obligations.StoreNotSeenByHit := by
  unfold Obligations.StoreNotSeenByHit
  refine ⟨fun s r w v x b hi hcold hm he hhit => ?_, fun s x b hwf herr hd => ⟨_, rfl, ?_, fun y => ?_⟩⟩
  · have h : s.cache.Hits r := ⟨hi, hcold, he, hhit⟩
    exact ⟨State.fetch_answer_of_hits h hm (s.operandWrite_cache w v) (s.operandWrite_sramMap w v),
      _, rfl, State.fetch_answer_of_hits h hm rfl (s.plat.busMasterStore_sramMap x b)⟩
  · rw [Platform.busMasterStore_memory herr hd]
  · rw [Platform.busMasterStore_memory herr hd]
    exact Memory.readByte_writeSized_byte hwf x b y

end Sys2Proof.Proofs

/-! SUPPORT. The core's instruction step over memory (30_encoding.md section 1, 41_fetch_linefill.md section 2): where its fetches are
answered with what memory holds, it holds the words memory holds at its pc, and executes what they decode to. -/

namespace Sys2Proof.Machine

/-! ### The words memory holds from an address on -/

/-- The first `n` words memory holds from an address on, wrapping past the top (log 34). -/
def Memory.words (m : Memory) (a : Long) (n : Nat) : List Half :=
  (List.range n).map fun k => m.readHalf (a + BitVec.ofNat 32 (2 * k))

theorem Memory.words_getElem? {m : Memory} {a : Long} {n k : Nat} {w : Half} (h : (m.words a n)[k]? = some w) :
    w = m.readHalf (a + BitVec.ofNat 32 (2 * k)) := by
  rw [Memory.words, List.getElem?_map, Option.map_eq_some_iff] at h
  obtain ⟨j, hj, rfl⟩ := h
  obtain ⟨hlt, rfl⟩ := List.getElem?_eq_some_iff.mp hj
  rw [List.getElem_range]

theorem Memory.words_one (m : Memory) (a : Long) : m.words a 1 = [m.readHalf a] := by
  simp [Memory.words, List.range_succ]

theorem Memory.words_two (m : Memory) (a : Long) : m.words a 2 = [m.readHalf a, m.readHalf (a + 2#32)] := by
  simp [Memory.words, List.range_succ]

theorem Memory.words_append (m : Memory) (a : Long) (n k : Nat) :
    m.words a n ++ m.words (a + BitVec.ofNat 32 (2 * n)) k = m.words a (n + k) := by
  have haddr (j : Nat) : a + BitVec.ofNat 32 (2 * n) + BitVec.ofNat 32 (2 * j) = a + BitVec.ofNat 32 (2 * (n + j)) := by
    rw [BitVec.add_assoc, ← BitVec.ofNat_add, Nat.mul_add]
  simp [Memory.words, List.range_add, haddr]

@[simp] theorem Memory.words_length (m : Memory) (a : Long) (n : Nat) : (m.words a n).length = n := by
  simp [Memory.words]

/-- How many words the core's fetch at an address brings: the one at an odd word address, or both of a longword. -/
def wordsAt (a : Long) : Nat := if a.getLsbD 1 then 1 else 2

theorem wordsAt_pos (a : Long) : 1 ≤ wordsAt a := by
  rw [wordsAt]
  split <;> decide

/-- No instruction of the unit needs more than two words (R65). -/
theorem wordsNeeded_le_two (ws : List Half) : wordsNeeded ws ≤ 2 := by
  cases ws with
  | nil => decide
  | cons w rest =>
    rw [wordsNeeded]
    split <;> decide

/-! ### A fetch of the core answered by memory -/

/-- At an even address with bit 1 set the longword's address is the word before. -/
theorem longBase_add_two {a : Long} (h0 : a.getLsbD 0 = false) (h1 : a.getLsbD 1 = true) : longBase a + 2#32 = a := by
  have hsep : longBase a &&& 2#32 = 0#32 := by
    ext n hn
    interval_cases n <;> simp [longBase]
  rw [BitVec.getLsbD_eq_getElem (by decide)] at h0 h1
  rw [BitVec.add_eq_or_of_and_eq_zero _ _ hsep]
  ext n hn
  interval_cases n <;> simp [longBase, h0, h1]

/-- Memory's answer to a fetch of the core at an even address gives it the words memory holds there. -/
theorem halves_memoryAnswer {a : Long} (h0 : a.getLsbD 0 = false) (m : Memory) (c : Cache) (r : Core) :
    memoryAnswer m c (r.fetchRef a) ≠ .busError ∧
      (memoryAnswer m c (r.fetchRef a)).halves a = m.words a (wordsAt a) := by
  have haddr : (r.fetchRef a).addr = a := rfl
  rw [memoryAnswer, haddr, wordsAt]
  split
  · next h =>
    refine ⟨Fetched.noConfusion, ?_⟩
    rw [if_pos h.2.1, Memory.words_one]
    rfl
  · refine ⟨Fetched.noConfusion, ?_⟩
    rw [Fetched.halves]
    cases h1 : a.getLsbD 1
    · have haligned : longBase a = a := longBase_of_aligned (by rw [RefSize.aligned, h0, h1]; rfl)
      simp only [Bool.false_eq_true, if_false]
      rw [Memory.readLong_high, Memory.readLong_low, haligned, Memory.words_two]
    · simp only [if_true]
      rw [Memory.readLong_low, longBase_add_two h0 h1, Memory.words_one]

/-- From a state with `P` the core's fetches at even addresses are answered by the memory `m`, and `P` stays. -/
structure FetchesMemory (m : Memory) (P : State → Prop) : Prop where
  answer : ∀ s a, P s → a.getLsbD 0 = false → (s.fetch (s.core.fetchRef a)).1 = memoryAnswer m s.cache (s.core.fetchRef a)
  keeps : ∀ s r, P s → P (s.fetch r).2
  append : ∀ s ws, P s → P (s.appendWords ws)

/-- Two bytes on, bit 0 is as it was and bit 1 is changed. -/
theorem getLsbD_add_two (a : Long) : (a + 2#32).getLsbD 0 = a.getLsbD 0 ∧ (a + 2#32).getLsbD 1 = !a.getLsbD 1 := by
  simp only [BitVec.getLsbD, Nat.testBit_eq_decide_div_mod_eq, BitVec.toNat_add, BitVec.toNat_ofNat]
  refine ⟨decide_eq_decide.mpr (by omega), ?_⟩
  rw [← decide_not]
  exact decide_eq_decide.mpr (by omega)

/-- A fetch that brings one word is followed by one that brings two. -/
theorem wordsAt_add_two {a : Long} (h : wordsAt a = 1) : wordsAt (a + 2#32) = 2 := by
  rw [wordsAt, (getLsbD_add_two a).2]
  rw [wordsAt] at h
  cases hbit : a.getLsbD 1
  · rw [hbit] at h
    cases h
  · rfl

section FetchesMemory

variable {m : Memory} {P : State → Prop}

/-- One fetch of the core's next words from memory. -/
theorem FetchesMemory.fetchAhead (hP : FetchesMemory m P) {s : State} (hs : P s)
    (heven : s.core.streamEnd.getLsbD 0 = false) :
    ∃ t, s.fetchAhead = .next t ∧ P t ∧ t.core = { s.core with
      prefetch := s.core.prefetch ++ m.words s.core.streamEnd (wordsAt s.core.streamEnd) } := by
  obtain ⟨hne, hhalves⟩ := halves_memoryAnswer heven m s.cache s.core
  have hanswer := hP.answer s _ hs heven
  refine ⟨(s.fetch (s.core.fetchRef s.core.streamEnd)).2.appendWords (m.words s.core.streamEnd (wordsAt s.core.streamEnd)),
    ?_, hP.append _ _ (hP.keeps s _ hs), ?_⟩
  · rw [← hhalves, ← hanswer]
    rw [← hanswer] at hne
    generalize ho : s.fetch (s.core.fetchRef s.core.streamEnd) = o at hne ⊢
    obtain ⟨f, u⟩ := o
    cases f with
    | longword v => simp only [State.fetchAhead, heven, ho, Bool.false_eq_true, if_false]
    | word w => simp only [State.fetchAhead, heven, ho, Bool.false_eq_true, if_false]
    | busError => exact absurd rfl hne
  · rw [State.appendWords, State.fetch_core]

/-- A state that holds the first `n` words memory holds at the pc of `s`, and is `s` elsewhere in the core. -/
def State.HoldsWords (m : Memory) (s t : State) (n : Nat) : Prop :=
  t.core = { s.core with prefetch := m.words s.core.pc n }

/-- With `n` words held, the next fetch adds those that follow. -/
theorem FetchesMemory.fetchAhead_holds (hP : FetchesMemory m P) {s t : State} {n : Nat} (ht : P t)
    (hold : State.HoldsWords m s t n) (heven : (s.core.pc + BitVec.ofNat 32 (2 * n)).getLsbD 0 = false) :
    ∃ u, t.fetchAhead = .next u ∧ P u ∧
      State.HoldsWords m s u (n + wordsAt (s.core.pc + BitVec.ofNat 32 (2 * n))) := by
  have hend : t.core.streamEnd = s.core.pc + BitVec.ofNat 32 (2 * n) := by
    rw [hold, Core.streamEnd, Memory.words_length]
  obtain ⟨u, hu, hPu, hcore⟩ := hP.fetchAhead ht (by rwa [hend])
  refine ⟨u, hu, hPu, ?_⟩
  rw [State.HoldsWords, hcore, hend, hold]
  simp only [Memory.words_append]

/-- The core fetches its instruction from memory: it holds at least the words the instruction needs. The first fetch brings
them, but for a MOVEC at an odd word address, whose second word comes with the next longword. -/
theorem FetchesMemory.fetchInstruction (hP : FetchesMemory m P) {s : State} (hs : P s) (hempty : s.core.prefetch = [])
    (heven : s.core.pc.getLsbD 0 = false) : ∃ u n, s.fetchInstruction = .next u ∧ P u ∧ State.HoldsWords m s u n ∧
      1 ≤ n ∧ wordsNeeded (m.words s.core.pc n) ≤ n := by
  have hstart : State.HoldsWords m s s 0 := by
    rw [State.HoldsWords, ← show s.core.prefetch = m.words s.core.pc 0 from hempty]
  obtain ⟨t, ht, hPt, hold⟩ := hP.fetchAhead_holds hs hstart (by simpa using heven)
  rw [Nat.zero_add, Nat.mul_zero, BitVec.add_zero] at hold
  have hfirst : State.ensureWords 1 1 s = .next t := by simp [State.ensureWords, hempty, ht]
  have hheld : t.core.prefetch = m.words s.core.pc (wordsAt s.core.pc) := by rw [hold]
  have hlen : t.core.prefetch.length = wordsAt s.core.pc := by rw [hheld, Memory.words_length]
  have hpos := wordsAt_pos s.core.pc
  have hneeded := wordsNeeded_le_two t.core.prefetch
  by_cases henough : wordsNeeded t.core.prefetch ≤ t.core.prefetch.length
  · refine ⟨t, _, ?_, hPt, hold, hpos, ?_⟩
    · simp only [State.fetchInstruction, hfirst, State.ensureWords_held henough]
    · rwa [hlen, hheld] at henough
  · have hone : wordsAt s.core.pc = 1 := by omega
    rw [hone] at hold
    obtain ⟨u, hu, hPu, hold'⟩ := hP.fetchAhead_holds hPt hold ((getLsbD_add_two s.core.pc).1.trans heven)
    rw [show wordsAt (s.core.pc + BitVec.ofNat 32 (2 * 1)) = 2 from wordsAt_add_two hone] at hold'
    have hlen' : u.core.prefetch.length = 3 := by rw [hold', Memory.words_length]
    have hsecond : State.ensureWords (wordsNeeded t.core.prefetch) 2 t = .next u := by
      rw [State.ensureWords, if_neg henough, hu]
      exact State.ensureWords_held (by omega) 1
    refine ⟨u, 3, ?_, hPu, hold', by decide, (wordsNeeded_le_two _).trans (by decide)⟩
    simp only [State.fetchInstruction, hfirst, hsecond]

/-- Enough of memory's words decode as the first two do. -/
theorem decodeWords_words {a : Long} {n : Nat} (h1 : 1 ≤ n) (hn : wordsNeeded (m.words a n) ≤ n) :
    decodeWords (m.words a n) = decodeWords [m.readHalf a, m.readHalf (a + 2#32)] := by
  by_cases h2 : 2 ≤ n
  · obtain ⟨k, rfl⟩ := Nat.exists_eq_add_of_le h2
    rw [← Memory.words_append, Memory.words_two]
    by_cases hw : m.readHalf a = movecOpcode
    · rw [hw]
      rfl
    · rw [List.cons_append, decodeWords_single hw, decodeWords_single hw]
  · obtain rfl : n = 1 := by omega
    rw [Memory.words_one] at hn ⊢
    by_cases hw : m.readHalf a = movecOpcode
    · simp [wordsNeeded, hw] at hn
    · rw [decodeWords_single hw, decodeWords_single hw]

/-- The instruction step executes what memory's words at the pc decode to. -/
theorem FetchesMemory.step (hP : FetchesMemory m P) {s : State} {i : Instr} {n : Nat} (hs : P s) (ha : s.agenda = [])
    (hempty : s.core.prefetch = []) (heven : s.core.pc.getLsbD 0 = false)
    (hd : decodeWords [m.readHalf s.core.pc, m.readHalf (s.core.pc + 2#32)] = .instr i n) :
    ∃ u k, Machine.step s = exec i u ∧ P u ∧ State.HoldsWords m s u k ∧ (m.words s.core.pc k).take n = encode i := by
  obtain ⟨u, k, hu, hPu, hold, h1, hk⟩ := hP.fetchInstruction hs hempty heven
  have hdecode := (decodeWords_words h1 hk).trans hd
  refine ⟨u, k, ?_, hPu, hold, (take_eq_encode_of_decodeWords hdecode).2.2⟩
  have hheld : u.core.prefetch = m.words s.core.pc k := by rw [hold]
  rw [Machine.step, State.nextMove, ha]
  simp only [State.instructionStep, hu]
  exact State.runHeld_instr (by rw [hheld]; exact hdecode)

end FetchesMemory

/-! ### The cache disabled, on a plain bus -/

/-- `t` is `s` with other words held and further accesses logged. -/
def State.HeldAndLogged (s t : State) : Prop :=
  ∃ (ws : List Half) (l : List ExtAccess),
    t = { s with core := { s.core with prefetch := ws }, plat := { s.plat with log := s.plat.log ++ l } }

/-- With the cache disabled, no sequence running and a plain bus without SRAM regions a fetch is answered by memory, and logs
its one access. -/
theorem State.fetch_plain {s : State} (hi : s.cache.invLeft = 0) (he : s.cache.cenb = false) (hm : s.plat.sramMap = [])
    (hq : s.plat.Quiet) (r : Ref) : (s.fetch r).1 = memoryAnswer s.plat.mem s.cache r ∧
      ∃ l, (s.fetch r).2 = { s with plat := { s.plat with log := s.plat.log ++ l } } := by
  have hmaps : s.plat.sramMaps r = false := by simp [Platform.sramMaps, hm]
  have herr := hq.busErrorAt r.addr
  rw [State.fetch_disabled hi hmaps he, State.uncachedFetch_eq, memoryAnswer]
  simp only [he, true_and]
  split
  · rw [State.extWord_ok herr, hq.settleWrites, (hq.access _).touch, Platform.externalRead_none _ _ _ (hq.deviceAt _)]
    refine ⟨?_, _, rfl⟩
    rw [Memory.readSized, BitVec.setWidth_setWidth_of_le _ (by decide), BitVec.setWidth_eq]
  · rw [State.extLongword_ok herr, hq.settleWrites, (hq.access _).touch, Platform.externalRead_none _ _ _ (hq.deviceAt _)]
    exact ⟨rfl, _, rfl⟩

theorem fetchesMemory_plain {s : State} (hi : s.cache.invLeft = 0) (he : s.cache.cenb = false) (hm : s.plat.sramMap = [])
    (hq : s.plat.Quiet) : FetchesMemory s.plat.mem s.HeldAndLogged where
  answer := by
    rintro _ a ⟨ws, l, rfl⟩ _
    exact (State.fetch_plain
      (s := { s with core := { s.core with prefetch := ws }, plat := { s.plat with log := s.plat.log ++ l } })
      hi he hm ⟨hq.noWrites, hq.noErrors, hq.noDevices⟩ _).1
  keeps := by
    rintro _ r ⟨ws, l, rfl⟩
    obtain ⟨l', e⟩ := (State.fetch_plain
      (s := { s with core := { s.core with prefetch := ws }, plat := { s.plat with log := s.plat.log ++ l } })
      hi he hm ⟨hq.noWrites, hq.noErrors, hq.noDevices⟩ r).2
    refine ⟨ws, l ++ l', ?_⟩
    rw [e, ← List.append_assoc]
  append := by
    rintro _ ws' ⟨ws, l, rfl⟩
    exact ⟨ws ++ ws', l, rfl⟩

/-- With the words of an instruction held, the step is its execution. -/
theorem step_of_held_encode {s : State} {i : Instr} {rest : List Half} (ha : s.agenda = []) (hwf : i.WellFormed)
    (hp : s.core.prefetch = encode i ++ rest) : step s = exec i s := by
  have hdecode : decodeWords s.core.prefetch = .instr i i.words := by rw [hp, decodeWords_encode hwf]
  rw [← State.runHeld_instr hdecode]
  cases i with
  | movecCacr ry => exact step_of_held_movec ha hp
  | movecAcr0 ry => exact step_of_held_movec ha hp
  | movecAcr1 ry => exact step_of_held_movec ha hp
  | cpushl n =>
    obtain ⟨w, hw, hpattern, -⟩ := encode_cpushl (of_decide_eq_true hwf)
    rw [hw] at hp
    exact step_of_held_single ha hp (ne_movecOpcode_of_pattern hpattern)

/-! ### A coherent state, the cache on or off -/

/-- What a fetch of the core leaves as it was in `s`, beside the core, from a coherent and booted state. -/
structure State.CoherentFrom (s t : State) : Prop where
  coherent : t.CoherentOver s.plat.mem
  booted : t.booted = true
  plat : s.plat.LogOnly t.plat
  regs : s.cache.SameRegs t.cache
  agenda : t.agenda = s.agenda
  reply : t.reply = s.reply
  raised : t.raised = s.raised
  draws : t.draws = s.draws

/-- The boot rule stays kept by a fetch, which draws nothing. -/
theorem State.fetch_booted_keeps {s : State} {r : Ref} (hb : s.booted = true) (hm : s.plat.sramMaps r = false) :
    (s.fetch r).2.booted = true ∧ (s.fetch r).2.draws = s.draws := by
  refine ⟨?_, by rw [State.fetch_booted hb hm, State.cacheFetch_draws]; rfl⟩
  have hpast := State.booted_finishInvalidate hb
  rw [State.booted, ← State.fetch_part (fun t => !t.cache.cenb || !t.cache.cold) (fun _ _ => rfl) (fun _ _ => rfl)
    (fun t => by simp only [Cache.cenb, Cache.transfer_cacr, Cache.transfer_cold]) (fun _ _ => rfl) s r] at hpast
  exact hpast

theorem fetchesMemory_coherent {s : State} (hm : s.plat.sramMap = []) : FetchesMemory s.plat.mem s.CoherentFrom := by
  have hmaps {t : State} (ht : s.CoherentFrom t) (r : Ref) : t.plat.sramMaps r = false := by
    rw [ht.plat]
    simp [Platform.sramMaps, hm]
  refine ⟨fun t a ht _ => ht.coherent.fetch_answer ht.booted (hmaps ht _), fun t r ht => ?_, fun t ws ht => ?_⟩
  · obtain ⟨hbooted, hdraws⟩ := State.fetch_booted_keeps ht.booted (hmaps ht r)
    refine ⟨ht.coherent.fetch r, hbooted, ?_, ht.regs.trans (t.sameRegs_fetch r), (t.fetch_agenda r).trans ht.agenda,
      (t.fetch_reply r).trans ht.reply, (t.fetch_raised r).trans ht.raised, hdraws.trans ht.draws⟩
    have hlog := State.fetch_logOnly ht.coherent.quiet.noWrites ht.coherent.quiet.noDevices r
    rw [Platform.LogOnly, hlog, ht.plat]
  · exact ⟨⟨ht.coherent.cache, ht.coherent.mem, ht.coherent.quiet⟩, ht.booted, ht.plat, ht.regs, ht.agenda,
      ht.reply, ht.raised, ht.draws⟩

end Sys2Proof.Machine

namespace Sys2Proof.Proofs

open Sys2Proof Sys2Proof.Machine

/-- Settles O54: fetched from memory with the cache disabled, or held already. -/
theorem stepRunsDecodedInstruction : Obligations.StepRunsDecodedInstruction := by
  unfold Obligations.StepRunsDecodedInstruction
  refine ⟨fun s i n ha hempty hi he hm hw herr hd heven hdecode => ?_,
    fun s i rest ha hwf hp => step_of_held_encode ha hwf hp⟩
  have hstart : s.HeldAndLogged s := ⟨s.core.prefetch, [], by rw [List.append_nil]⟩
  obtain ⟨u, k, hstep, ⟨ws, l, rfl⟩, hold, htake⟩ :=
    (fetchesMemory_plain hi he hm ⟨hw, herr, hd⟩).step hstart ha hempty heven hdecode
  obtain rfl : ws = Memory.words s.plat.mem s.core.pc k := congrArg Core.prefetch hold
  exact ⟨_, l, hstep, htake, fun j w h => Memory.words_getElem? h⟩

/-- Settles O55: fetched through the cache, whose answers are memory's in a coherent state. -/
theorem coherentStepRunsMemory : Obligations.CoherentStepRunsMemory := by
  unfold Obligations.CoherentStepRunsMemory
  intro s i n ha hempty hc hq hb hm heven hdecode
  have hstart : s.CoherentFrom s := ⟨⟨hc, rfl, hq⟩, hb, rfl, .refl _, rfl, rfl, rfl, rfl⟩
  obtain ⟨u, k, hstep, hu, hold, htake⟩ := (fetchesMemory_coherent hm).step hstart ha hempty heven hdecode
  have hheld : u.core.prefetch = Memory.words s.plat.mem s.core.pc k := by rw [hold]
  refine ⟨u, hstep, ?_, by rw [hheld]; exact htake, fun j w h => ?_, hu.plat, hu.agenda, hu.reply, hu.raised, hu.draws,
    hu.regs.cacr, hu.regs.acr0, hu.regs.acr1, hu.coherent.mem.symm ▸ hu.coherent.cache⟩
  · rw [hheld]
    exact hold
  · rw [hheld] at h
    exact Memory.words_getElem? h

end Sys2Proof.Proofs
